-- ==== Sys2Proof/Word.lean ====
section
/-! DEFINITION. The word types of BF-CORE: every P entry, S entry, block half and CSR is 32 bits, and memory is made
of 8-bit bytes (spec/00_scope.md R8, spec/20_memory.md R80). -/

namespace Sys2Proof

/-- A 32-bit word (00_scope R8, WORD = 32). -/
abbrev Word := BitVec 32

/-- One byte of master-port memory (20_memory R80). -/
abbrev Byte := BitVec 8

end Sys2Proof
end

