-- ==== Sys2Proof/Config.lean ====
section
/-! DEFINITION. What the specification leaves open: the free values the model draws (assumption log 9). The parameters of
00_scope R9 that a platform fixes (BF_BASE, BusErr, PlatformCoherent) are plain data in the State, logs 7, 8 and 16. -/

namespace Sys2Proof

/-- The byte an unspecified memory location is found to hold: 43_buffer_transform R191, 70_reset_and_hazards R243,
20_memory R93. It has no body, so nothing can be proved of its values; the argument is the draw's number. -/
opaque Config.freeByte : Nat → Byte

/-- The word an unspecified P or S entry is found to hold after the reset input (10_state R53, 70_reset_and_hazards R243).
It has no body, so nothing can be proved of its values; the argument is the draw's number. -/
opaque Config.freeWord : Nat → Word

/-- The number of byte addresses of master-port memory, 2^32 (00_scope R8, ADDR_W = 32). -/
abbrev Config.addressSpace : Nat := 4294967296

end Sys2Proof
end

