-- ==== Sys2Proof/Syntax.lean ====
section
/-! DEFINITION. The commands of command-set version 1 (00_scope R3, 30_encoding R114) and the names of the CSRs
(10_state R31). -/

namespace Sys2Proof

/-- The five commands, one constructor per row of spec/opcode_table.json. No command has an operand field: every operand
is a CSR latched at acceptance (30_encoding R113). -/
inductive Instr where
  /-- Build the Cipher State from the key (40_key_schedule R130). -/
  | schedule
  /-- Encrypt the block in BLK_L and BLK_R (42_block_transform R165). -/
  | encBlock
  /-- Decrypt the block in BLK_L and BLK_R (42_block_transform R166). -/
  | decBlock
  /-- Encrypt a buffer (43_buffer_transform R180). -/
  | encBuf
  /-- Decrypt a buffer (43_buffer_transform R181). -/
  | decBuf
  deriving DecidableEq, Repr

/-- The named registers of the CSR window (10_state R31). -/
inductive Reg where
  | id
  | ctrl
  | cmd
  | status
  | keylen
  | src
  | dst
  | len
  | blkL
  | blkR
  /-- KEY0 to KEY17. -/
  | key (j : Fin 18)
  deriving DecidableEq, Repr

/-- The direction of the block transform: EncryptBlock (42_block_transform R160) or DecryptBlock (R161). -/
inductive Dir where
  | enc
  | dec
  deriving DecidableEq, Repr

end Sys2Proof
end

