-- ==== Sys2Proof/WellFormed.lean ====
section
/-! DEFINITION. Well-formedness of what a host writes: a command word (30_encoding R111, R112) and a CSR access (30_encoding
R118). A decoded command has no field, so every `Instr` is well formed (30_encoding R113). -/

namespace Sys2Proof

/-- RSV, bits 31:4 of a command word, is zero (30_encoding R112). -/
def WellFormed.rsvClear (w : Word) : Bool := w.toNat / 16 == 0

/-- OP, bits 3:0 of a command word, is 0x1 to 0x5 (30_encoding R114). -/
def WellFormed.opDefined (w : Word) : Bool := 1 ≤ w.toNat % 16 && w.toNat % 16 ≤ 5

/-- A command word that stands for a command: both checks hold (30_encoding R115 refuses every other word). -/
def WellFormed.commandWord (w : Word) : Bool := WellFormed.rsvClear w && WellFormed.opDefined w

/-- A CSR access as 30_encoding R118 forms it: 32 bits wide, 4-byte aligned, at an offset below 0x100. -/
def WellFormed.csrAccess (offset size : Nat) : Bool := size == 4 && offset % 4 == 0 && offset < 0x100

/-- Every command is well formed: it has no operand field to check (30_encoding R113). -/
def Instr.wellFormed (_ : Instr) : Bool := true

end Sys2Proof
end

