-- ==== Sys2Proof/Decode.lean ====
section
/-! DEFINITION. The command decoder of 30_encoding R117, total on every 32-bit word, and the encoder written from the opcode
map of R114. A command is one CSR write of one whole word (R110), so a word has no byte order here (assumption log 17). -/

namespace Sys2Proof

/-- Why a word decodes as ILLEGAL (30_encoding R115). -/
inductive DecodeError where
  /-- A bit of RSV (bits 31:4) is set (R112). -/
  | reservedBits
  /-- OP is 0x0 or 0x6 to 0xF (R114). -/
  | illegalOp
  deriving DecidableEq, Repr

/-- OP, bits 3:0 (30_encoding R111). -/
def opField (w : Word) : BitVec 4 := w.extractLsb' 0 4

/-- RSV, bits 31:4 (30_encoding R112). -/
def rsvField (w : Word) : BitVec 28 := w.extractLsb' 4 28

/-- Decode(w) of 30_encoding R117; ILLEGAL is an error by name. -/
def decode (w : Word) : Except DecodeError Instr :=
  if rsvField w ≠ 0#28 then .error .reservedBits
  else if opField w = 0x1#4 then .ok .schedule
  else if opField w = 0x2#4 then .ok .encBlock
  else if opField w = 0x3#4 then .ok .decBlock
  else if opField w = 0x4#4 then .ok .encBuf
  else if opField w = 0x5#4 then .ok .decBuf
  else .error .illegalOp

/-- The OP value of a command (30_encoding R114). -/
def opcode : Instr → BitVec 4
  | .schedule => 0x1#4
  | .encBlock => 0x2#4
  | .decBlock => 0x3#4
  | .encBuf => 0x4#4
  | .decBuf => 0x5#4

/-- The command word of a command: RSV zero, OP its opcode (30_encoding R110, R112, R114). -/
def encode (i : Instr) : Word := 0#28 ++ opcode i

/-- The command the decoder reads from a table row's bits. The table numbers a command word as the hardware does, bit 0 the
least significant, and every row is one 32-bit word (30_encoding R110). -/
def decodeTableWord (nbits w : Nat) : Option Instr :=
  if nbits ≤ 32 then
    match decode (BitVec.ofNat 32 (w % 2 ^ nbits)) with
    | .ok i => some i
    | .error _ => none
  else none

end Sys2Proof
end

