-- ==== Sys2Proof/Machine/State.lean ====
section
/-! DEFINITION. The state of BF-CORE as plain data: the CSR file, the Cipher State and the sequencer of 10_state R30, the
master-port memory of 20_memory R80, the completions not yet observed (R92), the host caches of R97, and the model's own fields (the host's and the engine's moves
still to come, the last host-bus response, the platform's parameters, the counter of free values). -/

namespace Sys2Proof.Machine

/-- The completion codes of STATUS.ERR (60_exceptions R201). Codes 7 to 15 are never produced, so they have no name. -/
inductive ErrCode where
  | ok
  | invalidKey
  | notKeyed
  | illegalCmd
  | range
  | overlap
  | busError
  deriving DecidableEq, Repr

/-- The kind of a master-port access (00_scope R9, `BusErr(addr, kind)`). -/
inductive AccessKind where
  | read
  | write
  deriving DecidableEq, Repr

/-- One byte access of the engine on its master port (00_scope R15). -/
structure Access where
  kind : AccessKind
  addr : Nat
  deriving DecidableEq, Repr

/-- A range of master-port addresses, `first` to `last`, at which accesses of one kind get an error response. -/
structure ErrRegion where
  kind : AccessKind
  first : Nat
  last : Nat
  deriving DecidableEq, Repr

/-- What the platform fixes (00_scope R9): BF_BASE; BusErr as a list of ranges (any predicate on the 2^32 addresses and two
kinds is such a list); and PlatformCoherent. No step changes it (assumption logs 7, 8 and 16). -/
structure Platform where
  /-- BF_BASE. -/
  base : Nat
  /-- BusErr(addr, kind). -/
  errors : List ErrRegion
  /-- PlatformCoherent: host caches are kept coherent with the engine's master-port accesses (20_memory R97). -/
  coherent : Bool
  deriving DecidableEq, Repr

/-- The Cipher State: P[0..17] and S[0..3][0..255] (10_state R50, R51). -/
structure CipherState where
  p : Vector Word 18
  s : Vector (Vector Word 256) 4
  deriving DecidableEq, Repr

/-- The operand values latched at acceptance (10_state R56). -/
structure Operands where
  keylen : Word
  key : Vector Word 18
  src : Word
  dst : Word
  len : Word
  blkL : Word
  blkR : Word
  deriving DecidableEq, Repr

/-- How far the running command has come: the loop indices of 10_state R55 with the working values they belong to
(10_state R57, 43_buffer_transform R182). -/
inductive Progress where
  /-- Accepted; no check of the command has been made yet. -/
  | checks
  /-- SCHEDULE: in encryption `n` (0..520) of step 4, before round `round` (0..15), with the halves as they stand. -/
  | sched (n round : Nat) (l r : Word)
  /-- ENC_BLOCK, DEC_BLOCK: before round `round` (0..15). -/
  | block (round : Nat) (l r : Word)
  /-- ENC_BUF, DEC_BUF: reading block `j`; `todo` are the byte indices not yet read, `b` holds the bytes read. -/
  | read (j : Nat) (todo : List (Fin 8)) (b : Vector Byte 8)
  /-- ENC_BUF, DEC_BUF: block `j` before round `round` (0..15). -/
  | rounds (j round : Nat) (l r : Word)
  /-- ENC_BUF, DEC_BUF: writing block `j`, whose result halves are `l` and `r`; `todo` are the byte indices not yet
  written. -/
  | write (j : Nat) (todo : List (Fin 8)) (l r : Word)
  /-- ENC_BUF, DEC_BUF: copying the trailing bytes; offsets still to read, and bytes read and still to write. -/
  | tail (toRead : List Nat) (toWrite : List (Nat × Byte))
  deriving DecidableEq, Repr

/-- A list of address and byte pairs in canonical form (`Memory.wf`): master-port memory (20_memory R80). -/
abbrev Memory := List Host.Cell

/-- The copies of memory bytes that host caches hold, by address, in canonical form (`Cache.wf`): 20_memory R97, assumption
log 16. -/
abbrev Cache := List Host.Cell

/-- A running command: what the sequencer holds in BUSY (10_state R55, R56). -/
structure Run where
  /-- The latched command word. -/
  word : Word
  /-- The latched operands. -/
  ops : Operands
  /-- The loop indices and working values. -/
  progress : Progress
  /-- The destination bytes written over the master port so far, newest first (assumption log 10). -/
  out : List Host.Cell
  /-- The addresses of this command's buffers that a host wrote during BUSY (20_memory R93, assumption log 11). -/
  raced : List Nat
  deriving DecidableEq, Repr

/-- The sequencer: IDLE, or BUSY with the running command (10_state R55). STATUS.BUSY is this mode. -/
inductive Sequencer where
  | idle
  | busy (r : Run)
  deriving DecidableEq, Repr

/-- A buffer command that has completed while software has not yet observed its completion (70_reset_and_hazards R252,
20_memory R92, assumption log 19). -/
structure Completed where
  /-- The operands it ran on. -/
  ops : Operands
  /-- Memory as it was before the command's writes, with the host's stores since: the old values of R93. -/
  before : Memory
  deriving DecidableEq, Repr

/-- One thing an agent does (00_scope R18). The order of a list of these is the order the host bus serialises
(60_exceptions R220) and says when the engine moves (assumption log 1). -/
inductive Event where
  /-- A host read of `size` bytes at host address `addr` (10_state R48). -/
  | csrRead (addr size : Nat)
  /-- A host write of `v`, `size` bytes wide, at host address `addr` (10_state R48). -/
  | csrWrite (addr size : Nat) (v : Word)
  /-- A host load of one byte of memory; `pick` chooses among the values a racing read may return (20_memory R93). -/
  | memRead (a : Word) (pick : Nat)
  /-- A host store of one byte of memory. -/
  | memWrite (a : Word) (b : Byte)
  /-- A host cache takes a copy of a byte of memory, for a load or of itself; `pick` as for `memRead` (20_memory R97,
  assumption log 16). -/
  | cacheFill (a : Word) (pick : Nat)
  /-- The copy of a byte goes to memory: the host cleans it, or its cache evicts it (20_memory R97, assumption log 16). -/
  | cacheClean (a : Word)
  /-- The copy of a byte is dropped: the host invalidates it, or its cache evicts it (20_memory R97, assumption log 16). -/
  | cacheInvalidate (a : Word)
  /-- The reset input (70_reset_and_hazards R240). -/
  | reset
  /-- The engine makes one micro-step; `pick` chooses among the accesses whose order is open (43_buffer_transform R188). -/
  | tick (pick : Nat)
  /-- The engine runs the latched command to its completion. -/
  | finish
  deriving DecidableEq, Repr

/-- The host bus's answer to the last access (10_state R48, 30_encoding R121). -/
inductive Response where
  /-- No access has been made since reset. -/
  | none
  /-- The 32-bit value a CSR read returned. -/
  | data (v : Word)
  /-- The byte a memory read returned. -/
  | byte (b : Byte)
  /-- A write was taken by the bus. -/
  | written
  /-- The error response of an access that is not aligned and 32 bits wide. -/
  | error
  deriving DecidableEq, Repr

/-- The machine. -/
structure State where
  /-- CTRL.IE (10_state R33). -/
  ie : Bool
  /-- STATUS.DONE (10_state R37). -/
  done : Bool
  /-- STATUS.KEYED (10_state R38). -/
  keyed : Bool
  /-- STATUS.OVR (10_state R39). -/
  ovr : Bool
  /-- STATUS.ERR (10_state R40). -/
  err : ErrCode
  /-- KEYLEN (10_state R41). -/
  keylen : Word
  /-- SRC (10_state R42). -/
  src : Word
  /-- DST (10_state R43). -/
  dst : Word
  /-- LEN (10_state R44). -/
  len : Word
  /-- BLK_L (10_state R45). -/
  blkL : Word
  /-- BLK_R (10_state R45). -/
  blkR : Word
  /-- KEY0 to KEY17 (10_state R46). -/
  key : Vector Word 18
  /-- The Cipher State P and S (10_state R50, R51). -/
  cipher : CipherState
  /-- The sequencer, whose mode is STATUS.BUSY (10_state R55, R56). -/
  seq : Sequencer
  /-- Master-port memory (20_memory R80). -/
  mem : Memory
  /-- The buffer commands whose completion software has not observed, newest first (70_reset_and_hazards R252). -/
  unobserved : List Completed
  /-- What host caches hold, on a platform that does not keep them coherent (20_memory R97). -/
  cache : Cache
  /-- BF_BASE, BusErr and PlatformCoherent (00_scope R9). -/
  platform : Platform
  /-- What the agents do next, in order (assumption log 1). -/
  inputs : List Event
  /-- The last host-bus response (assumption log 13). -/
  response : Response
  /-- How many free values have been drawn (assumption log 9). -/
  draws : Nat
  deriving DecidableEq, Repr

/-- P and S right after reset: 10_state R53 leaves them unspecified, and the model names zero (assumption log 4). -/
def CipherState.atReset : CipherState where
  p := Vector.replicate 18 0#32
  s := Vector.replicate 4 (Vector.replicate 256 0#32)

/-- The machine right after reset (10_state R61, 70_reset_and_hazards R240). -/
def State.reset : State where
  ie := false
  done := false
  keyed := false
  ovr := false
  err := .ok
  keylen := 0#32
  src := 0#32
  dst := 0#32
  len := 0#32
  blkL := 0#32
  blkR := 0#32
  key := Vector.replicate 18 0#32
  cipher := CipherState.atReset
  seq := .idle
  mem := []
  unobserved := []
  cache := []
  platform := { base := 0, errors := [], coherent := true }
  inputs := []
  response := .none
  draws := 0

/-- The reasons a step can stop with a fault. There is none: BF-CORE raises no trap, every error is a completion code
(60_exceptions R200), and an ill-formed CSR access gets an error response and changes nothing (10_state R48). -/
inductive Fault where
  deriving DecidableEq, Repr

/-- The reasons a step can be refused. -/
inductive Refusal where
  /-- Raised by an arm of `exec` for a command that has no meaning yet; safe. No arm raises it in this model. -/
  | notModelled (mnemonic : String)
  deriving DecidableEq, Repr

end Sys2Proof.Machine
end

