-- ==== Sys2Proof/Machine/Operands.lean ====
section
/-! DEFINITION. Operand forms: the packing of bytes and words (00_scope R16), the block's mapping to its halves
(20_memory R83), the signed key length (00_scope R13), the key store's bytes and words (10_state R46, 40_key_schedule R131,
R132), and the operands a command runs on (10_state R56). -/

namespace Sys2Proof.Machine

/-- `for i in 0..n-1`, ascending: the state after the body has run for each index below `n`. -/
def loop {α : Type} (n : Nat) (body : Nat → α → α) (start : α) : α :=
  match n with
  | 0 => start
  | n + 1 => body n (loop n body start)

/-- be32(b0, b1, b2, b3): the first byte is the most significant (00_scope R16, 20_memory R81). -/
def be32 (b0 b1 b2 b3 : Byte) : Word :=
  (b0.setWidth 32 <<< 24) ||| (b1.setWidth 32 <<< 16) ||| (b2.setWidth 32 <<< 8) ||| b3.setWidth 32

/-- Byte `k` (0..3) of unbe32(w) = (w[31:24], w[23:16], w[15:8], w[7:0]) (00_scope R16, 20_memory R82). -/
def unbe32 (w : Word) (k : Nat) : Byte := w.extractLsb' (24 - 8 * k) 8

/-- left of a block: be32 of its bytes 0..3 (20_memory R83). -/
def blockLeft (b : Vector Byte 8) : Word := be32 b[0] b[1] b[2] b[3]

/-- right of a block: be32 of its bytes 4..7 (20_memory R83). -/
def blockRight (b : Vector Byte 8) : Word := be32 b[4] b[5] b[6] b[7]

/-- Byte `k` (0..7) of a result pair: unbe32(left) then unbe32(right) (20_memory R83). -/
def blockByte (lr : Word × Word) (k : Nat) : Byte :=
  if k < 4 then unbe32 lr.1 k else unbe32 lr.2 (k - 4)

/-- sKEYLEN: KEYLEN as a 32-bit two's-complement integer (00_scope R13). -/
def sKeylen (keylen : Word) : Int := keylen.toInt

/-- KeyByte(n), 0 <= n <= 71: KEY(n div 4)[31-8(n mod 4) : 24-8(n mod 4)] (10_state R46). -/
def keyByte (key : Vector Word 18) (n : Nat) : Byte := unbe32 (key[n / 4]?.getD 0#32) (n % 4)

/-- KB(L, n) = KeyByte(n mod L) (40_key_schedule R131). -/
def cyclicKeyByte (key : Vector Word 18) (len n : Nat) : Byte := keyByte key (n % len)

/-- KeyWord(L, i) (40_key_schedule R132). -/
def keyWord (key : Vector Word 18) (len i : Nat) : Word :=
  be32 (cyclicKeyByte key len (4 * i)) (cyclicKeyByte key len (4 * i + 1))
    (cyclicKeyByte key len (4 * i + 2)) (cyclicKeyByte key len (4 * i + 3))

/-- The operand registers, as acceptance latches them (10_state R56). -/
def State.latch (s : State) : Operands where
  keylen := s.keylen
  key := s.key
  src := s.src
  dst := s.dst
  len := s.len
  blkL := s.blkL
  blkR := s.blkR

/-- The operands a command runs on: the latched values of the running command (10_state R56). A command run on an idle
machine is taken as accepted there, with the registers' values (assumption log 15). -/
def State.operands (s : State) : Operands :=
  match s.seq with
  | .idle => s.latch
  | .busy r => r.ops

/-- The addresses of the running command's buffers that a host wrote during BUSY (20_memory R93). -/
def State.raced (s : State) : List Nat :=
  match s.seq with
  | .idle => []
  | .busy r => r.raced

/-- floor(LEN / 8), the number of whole blocks (43_buffer_transform R183). -/
def Operands.blocks (o : Operands) : Nat := o.len.toNat / 8

/-- Address `a` lies in the `n` bytes from `first`. -/
def inRange (first n a : Nat) : Bool := first ≤ a && a < first + n

/-- Address `a` lies in [SRC, SRC+LEN). -/
def Operands.inSource (o : Operands) (a : Nat) : Bool := inRange o.src.toNat o.len.toNat a

/-- Address `a` lies in [DST, DST+LEN). -/
def Operands.inDest (o : Operands) (a : Nat) : Bool := inRange o.dst.toNat o.len.toNat a

end Sys2Proof.Machine
end

