-- ==== Sys2Proof/Machine/Cipher.lean ====
section
/-! DEFINITION. The cipher: access to P and S, the Feistel function F (41_feistel R150 to R155), the 16-round block
transform and its inverse (42_block_transform R160, R161), and the tables of the key schedule (40_key_schedule R135 to
R140). -/

namespace Sys2Proof.Machine

/-- P[i] (10_state R50); the index is always below 18. -/
def CipherState.pAt (c : CipherState) (i : Nat) : Word := c.p[i]?.getD 0#32

/-- S[b][x] (10_state R51). -/
def CipherState.sAt (c : CipherState) (b : Fin 4) (x : Byte) : Word := c.s[b][x.toNat]'(x.isLt)

/-- P[i] <- w. -/
def CipherState.setP (c : CipherState) (i : Nat) (w : Word) : CipherState :=
  { c with p := c.p.setIfInBounds i w }

/-- S[f div 256][f mod 256] <- w, flat index f (10_state R52). -/
def CipherState.setFlat (c : CipherState) (f : Nat) (w : Word) : CipherState :=
  if h : f < 1024 then
    { c with s := c.s.set (f / 256) ((c.s[f / 256]'(by omega)).set (f % 256) w (by omega)) (by omega) }
  else c

/-- F(x) = ((S[0][a] +32 S[1][b]) ^ S[2][c]) +32 S[3][d], where a, b, c, d are the bytes of x from the most significant
(41_feistel R150 to R152). -/
def feistel (t : CipherState) (x : Word) : Word :=
  ((t.sAt 0 (x.extractLsb' 24 8) + t.sAt 1 (x.extractLsb' 16 8)) ^^^ t.sAt 2 (x.extractLsb' 8 8))
    + t.sAt 3 (x.extractLsb' 0 8)

/-- The P index of round or whitening step `i` (0..17): ascending for EncryptBlock, 17 - i for DecryptBlock
(42_block_transform R160, R161). -/
def keyIndex (d : Dir) (i : Nat) : Nat :=
  match d with
  | .enc => i
  | .dec => 17 - i

/-- One round on (l, r): l <- l ^ P, r <- r ^ F(l), swap (42_block_transform R160, R161). -/
def roundStep (d : Dir) (t : CipherState) (i : Nat) (lr : Word × Word) : Word × Word :=
  let l := lr.1 ^^^ t.pAt (keyIndex d i)
  (lr.2 ^^^ feistel t l, l)

/-- What follows the 16 rounds: undo the final swap, then r and l take the whitening words
(42_block_transform R160, R161). -/
def whiten (d : Dir) (t : CipherState) (lr : Word × Word) : Word × Word :=
  (lr.2 ^^^ t.pAt (keyIndex d 17), lr.1 ^^^ t.pAt (keyIndex d 16))

/-- The block transform in direction `d`. -/
def blockTransform (d : Dir) (t : CipherState) (lr : Word × Word) : Word × Word :=
  whiten d t (loop 16 (roundStep d t) lr)

/-- EncryptBlock (42_block_transform R160). -/
def encryptBlock (t : CipherState) (lr : Word × Word) : Word × Word := blockTransform .enc t lr

/-- DecryptBlock (42_block_transform R161). -/
def decryptBlock (t : CipherState) (lr : Word × Word) : Word × Word := blockTransform .dec t lr

/-- Steps 1 to 3 of the key schedule for a key of `len` bytes: the ROM, with KeyWord(L, i) XORed into P[i] for i = 0..17
(40_key_schedule R135, R136). -/
def keyedTables (key : Vector Word 18) (len : Nat) : CipherState :=
  loop 18 (fun i t => t.setP i (t.pAt i ^^^ keyWord key len i)) romCipher

/-- Where encryption `n` (0..520) of step 4 puts its result: P[2n], P[2n+1] for the first 9, then the flat S indices from 0
(40_key_schedule R137, R138). -/
def writePair (n : Nat) (lr : Word × Word) (t : CipherState) : CipherState :=
  if n < 9 then (t.setP (2 * n) lr.1).setP (2 * n + 1) lr.2
  else (t.setFlat (2 * (n - 9)) lr.1).setFlat (2 * (n - 9) + 1) lr.2

/-- Encryption `n` of step 4: encrypt the previous pair over the tables as they stand, then write the result into them
(40_key_schedule R137 to R139). -/
def chainStep (n : Nat) (x : CipherState × (Word × Word)) : CipherState × (Word × Word) :=
  let lr := encryptBlock x.1 x.2
  (writePair n lr x.1, lr)

/-- The tables and the pair after the first `n` encryptions of step 4 (40_key_schedule R137 to R139). -/
def chain (key : Vector Word 18) (len n : Nat) : CipherState × (Word × Word) :=
  loop n chainStep (keyedTables key len, (0#32, 0#32))

/-- The Cipher State a SCHEDULE of a key of `len` >= 1 bytes builds: 521 encryptions (40_key_schedule R130, R140). -/
def scheduleTables (key : Vector Word 18) (len : Nat) : CipherState := (chain key len 521).1

end Sys2Proof.Machine
end

