-- ==== Sys2Proof/Machine/Flags.lean ====
section
/-! DEFINITION. The flags: the STATUS fields and their word (10_state R35 to R40), the completion codes' numbers
(60_exceptions R201), CTRL (10_state R33), the write-one-to-clear rule (10_state R35) and `irq` (10_state R58). -/

namespace Sys2Proof.Machine

/-- The number of a completion code (60_exceptions R201). -/
def ErrCode.code : ErrCode → BitVec 4
  | .ok => 0#4
  | .invalidKey => 1#4
  | .notKeyed => 2#4
  | .illegalCmd => 3#4
  | .range => 4#4
  | .overlap => 5#4
  | .busError => 6#4

/-- STATUS.BUSY: 1 exactly in the sequencer's mode BUSY (10_state R36, R55). -/
def State.busy (s : State) : Bool :=
  match s.seq with
  | .idle => false
  | .busy _ => true

/-- STATUS: bits 31:12 zero, ERR 11:8, 7:4 zero, OVR, KEYED, DONE, BUSY (10_state R35). -/
def State.statusWord (s : State) : Word :=
  0#20 ++ s.err.code ++ 0#4 ++ BitVec.ofBool s.ovr ++ BitVec.ofBool s.keyed ++ BitVec.ofBool s.done
    ++ BitVec.ofBool s.busy

/-- CTRL: bits 31:1 zero, IE (10_state R33). -/
def State.ctrlWord (s : State) : Word := 0#31 ++ BitVec.ofBool s.ie

/-- A host write of CTRL: IE takes bit 0, the reserved bits ignore the write (10_state R33). -/
def State.writeCtrl (s : State) (v : Word) : State := { s with ie := v.getLsbD 0 }

/-- A host write of STATUS: bit 1 clears DONE, bit 3 clears OVR, and nothing else happens (10_state R35). -/
def State.writeStatus (s : State) (v : Word) : State :=
  { s with done := s.done && !v.getLsbD 1, ovr := s.ovr && !v.getLsbD 3 }

/-- `irq = CTRL.IE & STATUS.DONE` (10_state R58, 60_exceptions R215). -/
def State.irq (s : State) : Bool := s.ie && s.done

end Sys2Proof.Machine
end

