-- ==== Sys2Proof/Machine/Ops.lean ====
section
/-! DEFINITION. The named operations: bytes of memory in canonical form, the engine's master port (20_memory R80 to R86),
acceptance and completion of a command (00_scope R17, 92_eei_decisions D8), and the drawing of unspecified bytes
(43_buffer_transform R191, 20_memory R93). BF-CORE has no trap: `complete` is the one shared operation that ends every
command, with success or with an error (60_exceptions R200, R212). -/

namespace Sys2Proof.Machine

/-- What an address that is not listed reads as. The spec gives memory no contents before the host stores some
(assumption log 6). -/
def unlistedByte : Byte := 0#8

/-- The canonical form: addresses strictly rising, and no entry equal to what an unlisted address reads as. -/
abbrev Memory.wf (m : Memory) : Prop :=
  m.Pairwise (fun x y => x.1 < y.1) ∧ ∀ c ∈ m, c.2 ≠ unlistedByte

/-- The byte at address `a`. -/
def Memory.read (m : Memory) (a : Nat) : Byte :=
  match m with
  | [] => unlistedByte
  | c :: rest => if c.1 = a then c.2 else Memory.read rest a

/-- Memory with byte `b` stored at address `a`, in canonical form again. -/
def Memory.write (m : Memory) (a : Nat) (b : Byte) : Memory :=
  match m with
  | [] => if b = unlistedByte then [] else [(a, b)]
  | c :: rest =>
    if a < c.1 then (if b = unlistedByte then c :: rest else (a, b) :: c :: rest)
    else if a = c.1 then (if b = unlistedByte then rest else (a, b) :: rest)
    else c :: Memory.write rest a b

/-- The canonical form of what host caches hold: addresses strictly rising (20_memory R97, assumption log 16). -/
abbrev Cache.wf (c : Cache) : Prop := c.Pairwise (fun x y => x.1 < y.1)

/-- The copy of the byte at address `a`, if there is one. -/
def Cache.find (c : Cache) (a : Nat) : Option Byte :=
  match c with
  | [] => none
  | x :: rest => if x.1 = a then some x.2 else Cache.find rest a

/-- The copies with `b` as that of address `a`. -/
def Cache.put (c : Cache) (a : Nat) (b : Byte) : Cache :=
  match c with
  | [] => [(a, b)]
  | x :: rest =>
    if a < x.1 then (a, b) :: x :: rest
    else if a = x.1 then (a, b) :: rest
    else x :: Cache.put rest a b

/-- The copies without that of address `a`. -/
def Cache.drop (c : Cache) (a : Nat) : Cache := c.filter (fun x => x.1 != a)

/-- The copy a host access to address `a` meets: none on a platform that keeps its caches coherent (20_memory R97). -/
def State.hostCopy (s : State) (a : Nat) : Option Byte := if s.platform.coherent then none else s.cache.find a

/-- The byte a host sees at address `a` when no access there races: its copy, or the byte in memory (20_memory R97). -/
def State.hostByte (s : State) (a : Nat) : Byte := (s.hostCopy a).getD (s.mem.read a)

/-- BusErr(addr, kind) (00_scope R9, 43_buffer_transform R191). -/
def Platform.busErr (p : Platform) (x : Access) : Bool :=
  p.errors.any (fun e => e.kind == x.kind && e.first ≤ x.addr && x.addr ≤ e.last)

/-- MemRead(a, 1): the byte, or an error response (00_scope R15, 43_buffer_transform R191). -/
def masterRead (p : Platform) (m : Memory) (a : Nat) : Option Byte :=
  if p.busErr ⟨.read, a⟩ then none else some (m.read a)

/-- MemWrite(a, 1, b): the memory after it, or an error response (00_scope R15, 43_buffer_transform R191). -/
def masterWrite (p : Platform) (m : Memory) (a : Nat) (b : Byte) : Option Memory :=
  if p.busErr ⟨.write, a⟩ then none else some (m.write a b)

/-- The word at `a`: four byte reads, the first byte the most significant (20_memory R81, R86). -/
def loadWord (p : Platform) (m : Memory) (a : Nat) : Option Word := do
  let b0 ← masterRead p m a
  let b1 ← masterRead p m (a + 1)
  let b2 ← masterRead p m (a + 2)
  let b3 ← masterRead p m (a + 3)
  return be32 b0 b1 b2 b3

/-- Word `w` stored at `a`: four byte writes, w[31:24] at `a` (20_memory R82, R86). -/
def storeWord (p : Platform) (m : Memory) (a : Nat) (w : Word) : Option Memory := do
  let m ← masterWrite p m a (unbe32 w 0)
  let m ← masterWrite p m (a + 1) (unbe32 w 1)
  let m ← masterWrite p m (a + 2) (unbe32 w 2)
  masterWrite p m (a + 3) (unbe32 w 3)

/-- The command word `w` decodes as SCHEDULE. -/
def isSchedule (w : Word) : Bool :=
  match decode w with
  | .ok .schedule => true
  | _ => false

/-- The command word `w` decodes as ENC_BUF or DEC_BUF. -/
def isBuffer (w : Word) : Bool :=
  match decode w with
  | .ok .encBuf => true
  | .ok .decBuf => true
  | _ => false

/-- Acceptance of command word `w`: BUSY <- 1, DONE <- 0, ERR <- OK, the word and the operands latched
(92_eei_decisions D8, 10_state R34, R56), and KEYED <- 0 when the command is SCHEDULE (40_key_schedule R142). -/
def State.accept (s : State) (w : Word) : State :=
  { s with
    done := false
    err := .ok
    keyed := s.keyed && !isSchedule w
    seq := .busy { word := w, ops := s.latch, progress := .checks, out := [], raced := [] } }

/-- complete(code): STATUS.ERR <- code, DONE <- 1, BUSY <- 0 (00_scope R17). The command's own writes are made by its
meaning, in the state it completes. -/
def State.complete (s : State) (code : ErrCode) : State :=
  { s with err := code, done := true, seq := .idle }

/-- The bytes at offsets below `len` from `dst` for which `hit` holds take unspecified values; no byte outside the address
space exists (43_buffer_transform R191, 70_reset_and_hazards R243, 20_memory R93). -/
def drawRange (dst len : Nat) (hit : Nat → Bool) (draws : Nat) (m : Memory) : Memory :=
  loop len
    (fun k m =>
      if hit k && dst + k < Config.addressSpace then m.write (dst + k) (Config.freeByte (draws + k)) else m)
    m

/-- The destination bytes at the offsets for which `hit` holds are drawn, and the draws are counted. -/
def State.drawDest (s : State) (o : Operands) (hit : Nat → Bool) : State :=
  { s with
    mem := drawRange o.dst.toNat o.len.toNat hit s.draws s.mem
    draws := s.draws + o.len.toNat }

/-- The completions to observe after a buffer command that passed its checks, memory in `s` being as before its writes. An empty
buffer leaves nothing to observe (70_reset_and_hazards R252, 43_buffer_transform R185, assumption log 19). -/
def State.owed (s : State) (o : Operands) : List Completed :=
  if o.len = 0#32 then s.unobserved else { ops := o, before := s.mem } :: s.unobserved

/-- The destination byte at offset `m` belongs to a block, or is a copied trailing byte, whose source or destination a
host wrote during BUSY (20_memory R93, assumption log 11). -/
def racedOffset (o : Operands) (raced : List Nat) (m : Nat) : Bool :=
  if m < 8 * o.blocks then
    raced.any (fun a => inRange (o.src.toNat + 8 * (m / 8)) 8 a || inRange (o.dst.toNat + 8 * (m / 8)) 8 a)
  else
    o.src != o.dst && raced.any (fun a => a == o.src.toNat + m || a == o.dst.toNat + m)

/-- The destination bytes of the blocks that a racing host write affected are left unspecified (20_memory R93). -/
def State.settleRaces (s : State) (o : Operands) (raced : List Nat) : State :=
  if raced.isEmpty then s else s.drawDest o (racedOffset o raced)

end Sys2Proof.Machine
end

