-- ==== Sys2Proof/Machine/Block.lean ====
section
/-! DEFINITION. The meanings of ENC_BLOCK and DEC_BLOCK (42_block_transform R165, R166). -/

namespace Sys2Proof.Machine

/-- A block command that completes with OK and result `lr`: BLK_L and BLK_R are committed (42_block_transform R165). -/
def State.blockDone (s : State) (lr : Word × Word) : State :=
  { s with blkL := lr.1, blkR := lr.2 }.complete .ok

/-- ENC_BLOCK and DEC_BLOCK for the block transform `T`: NOT_KEYED when KEYED = 0 (60_exceptions R203), else the result of
`T` on the latched halves. -/
def State.blockCommand (s : State) (T : Word × Word → Word × Word) : State :=
  if s.keyed then s.blockDone (T (s.operands.blkL, s.operands.blkR)) else s.complete .notKeyed

/-- ENC_BLOCK (42_block_transform R165). -/
def execEncBlock (s : State) : Host.Outcome State Fault Refusal := .next (s.blockCommand (encryptBlock s.cipher))

/-- DEC_BLOCK (42_block_transform R166). -/
def execDecBlock (s : State) : Host.Outcome State Fault Refusal := .next (s.blockCommand (decryptBlock s.cipher))

end Sys2Proof.Machine
end

