-- ==== Sys2Proof/Machine/Buffer.lean ====
section
/-! DEFINITION. The meanings of ENC_BUF and DEC_BUF: the iterator BufferOp(T) of 43_buffer_transform R182. -/

namespace Sys2Proof.Machine

/-- The code with which the checks of a buffer command refuse it, in the order of 60_exceptions R210: NOT_KEYED (R203),
RANGE (43_buffer_transform R186), OVERLAP (R187). Sums are unbounded (00_scope R12). -/
def bufferRefusal (keyed : Bool) (o : Operands) : Option ErrCode :=
  let src := o.src.toNat
  let dst := o.dst.toNat
  let len := o.len.toNat
  if !keyed then some .notKeyed
  else if 0 < len ∧ (src + len > Config.addressSpace ∨ dst + len > Config.addressSpace) then some .range
  else if 0 < len ∧ src ≠ dst ∧ src < dst + len ∧ dst < src + len then some .overlap
  else none

/-- One block of BufferOp(T): read 8 bytes at `src`, transform, write 8 bytes at `dst` (43_buffer_transform R182). -/
def blockOp (T : Word × Word → Word × Word) (p : Platform) (src dst : Nat) (m : Memory) : Option Memory := do
  let l ← loadWord p m src
  let r ← loadWord p m (src + 4)
  let m ← storeWord p m dst (T (l, r)).1
  storeWord p m (dst + 4) (T (l, r)).2

/-- The first `n` blocks of BufferOp(T), ascending (43_buffer_transform R182, R183); none after an error response. -/
def blocksOp (T : Word × Word → Word × Word) (p : Platform) (src dst : Nat) (n : Nat) (m : Memory) : Option Memory :=
  loop n (fun j m => m.bind (blockOp T p (src + 8 * j) (dst + 8 * j))) (some m)

/-- One trailing byte copied from `src` to `dst` (43_buffer_transform R182, R184). -/
def copyByte (p : Platform) (src dst : Nat) (m : Memory) : Option Memory := do
  let b ← masterRead p m src
  masterWrite p m dst b

/-- `n` trailing bytes copied from `src` to `dst`, one after the other. -/
def copyBytes (p : Platform) (src dst : Nat) (n : Nat) (m : Memory) : Option Memory :=
  loop n (fun t m => m.bind (copyByte p (src + t) (dst + t))) (some m)

/-- The memory after a BufferOp(T) that passed its checks, or none when a master-port access got an error response
(43_buffer_transform R182, R191). -/
def bufferMemory (T : Word × Word → Word × Word) (p : Platform) (o : Operands) (m : Memory) : Option Memory := do
  let m ← blocksOp T p o.src.toNat o.dst.toNat o.blocks m
  if o.src = o.dst then return m
  else copyBytes p (o.src.toNat + 8 * o.blocks) (o.dst.toNat + 8 * o.blocks) (o.len.toNat % 8) m

/-- A buffer command that met a bus error: every byte of [DST, DST+LEN) is unspecified, and the code is BUS_ERROR
(43_buffer_transform R191, 60_exceptions R207). Its completion is to be observed (70_reset_and_hazards R252). -/
def State.bufferFailed (s : State) (o : Operands) : State :=
  (State.drawDest { s with unobserved := s.owed o } o (fun _ => true)).complete .busError

/-- A buffer command that completes with OK, leaving memory `m`; the blocks a host raced with are unspecified
(20_memory R93). Its completion is to be observed (70_reset_and_hazards R252). -/
def State.bufferDone (s : State) (o : Operands) (raced : List Nat) (m : Memory) : State :=
  (State.settleRaces { s with mem := m, unobserved := s.owed o } o raced).complete .ok

/-- BufferOp(T) (43_buffer_transform R182). -/
def State.bufferCommand (s : State) (T : Word × Word → Word × Word) : State :=
  match bufferRefusal s.keyed s.operands with
  | some code => s.complete code
  | none =>
    match bufferMemory T s.platform s.operands s.mem with
    | none => s.bufferFailed s.operands
    | some m => s.bufferDone s.operands s.raced m

/-- ENC_BUF: BufferOp(EncryptBlock) (43_buffer_transform R180). -/
def execEncBuf (s : State) : Host.Outcome State Fault Refusal := .next (s.bufferCommand (encryptBlock s.cipher))

/-- DEC_BUF: BufferOp(DecryptBlock) (43_buffer_transform R181). -/
def execDecBuf (s : State) : Host.Outcome State Fault Refusal := .next (s.bufferCommand (decryptBlock s.cipher))

end Sys2Proof.Machine
end

