-- ==== Sys2Proof/Machine/Schedule.lean ====
section
/-! DEFINITION. The meaning of SCHEDULE (40_key_schedule R130). -/

namespace Sys2Proof.Machine

/-- A SCHEDULE that completes with INVALID_KEY: KEYED is 0, P and S are untouched (40_key_schedule R141, R142). -/
def State.scheduleFailed (s : State) : State := { s with keyed := false }.complete .invalidKey

/-- A SCHEDULE that completes with OK, having left `t` in P and S: KEYED <- 1 (40_key_schedule R142). -/
def State.scheduleDone (s : State) (t : CipherState) : State :=
  { s with cipher := t, keyed := true }.complete .ok

/-- SCHEDULE (40_key_schedule R130): INVALID_KEY when sKEYLEN <= 0 (R141), else the tables of the key and OK. -/
def execSchedule (s : State) : Host.Outcome State Fault Refusal :=
  if sKeylen s.operands.keylen ≤ 0 then .next s.scheduleFailed
  else .next (s.scheduleDone (scheduleTables s.operands.key (sKeylen s.operands.keylen).toNat))

end Sys2Proof.Machine
end

