-- ==== Sys2Proof/Machine/Dispatch.lean ====
section
/-! DEFINITION. One arm per command of the opcode map (30_encoding R114): the engine runs the command to its completion. -/

namespace Sys2Proof.Machine

def exec (i : Instr) (s : State) : Host.Outcome State Fault Refusal :=
  match i with
  | .schedule => Sys2Proof.Machine.execSchedule s
  | .encBlock => Sys2Proof.Machine.execEncBlock s
  | .decBlock => Sys2Proof.Machine.execDecBlock s
  | .encBuf => Sys2Proof.Machine.execEncBuf s
  | .decBuf => Sys2Proof.Machine.execDecBuf s

end Sys2Proof.Machine
end

