-- ==== Sys2Proof/Machine/Engine.lean ====
section
/-! DEFINITION. The engine at the grain of its loop indices (10_state R55): one micro-step is one check, one round, one
written table pair, or one byte access on the master port, in the order 43_buffer_transform R188 fixes and, where that rule
leaves the order open, as `pick` chooses (assumption log 14). -/

namespace Sys2Proof.Machine

/-- A command accepted with a word that decodes as ILLEGAL: nothing but the completion fields changes
(60_exceptions R204). -/
def State.illegalCommand (s : State) : State := s.complete .illegalCmd

/-- The engine runs the latched command from acceptance to completion. -/
def engineRun (s : State) : Host.Outcome State Fault Refusal :=
  match s.seq with
  | .idle => .next s
  | .busy r =>
    match decode r.word with
    | .ok i => exec i s
    | .error _ => .next s.illegalCommand

/-- The direction a command runs the network in: SCHEDULE encrypts (40_key_schedule R137). -/
def cipherDir (i : Instr) : Dir :=
  match i with
  | .schedule => .enc
  | .encBlock => .enc
  | .decBlock => .dec
  | .encBuf => .enc
  | .decBuf => .dec

/-- The eight byte indices of a block. -/
def allEight : List (Fin 8) := [0, 1, 2, 3, 4, 5, 6, 7]

/-- The offsets of the trailing bytes that are copied: none in place (43_buffer_transform R184, R188). -/
def Operands.tailOffsets (o : Operands) : List Nat :=
  if o.src = o.dst then [] else List.range' (8 * o.blocks) (o.len.toNat % 8)

/-- Where a buffer command goes when block `j` is next: its reads, or the trailing bytes after the last block. -/
def Operands.atBlock (o : Operands) (j : Nat) : Progress :=
  if j < o.blocks then .read j allEight (Vector.replicate 8 0#8) else .tail o.tailOffsets []

/-- The element of a list that `pick` chooses; none of an empty list. -/
def chosen {α : Type} (pick : Nat) (todo : List α) : Option α := todo[pick % todo.length]?

/-- The list without the element that `pick` chooses. -/
def unchosen {α : Type} (pick : Nat) (todo : List α) : List α := todo.eraseIdx (pick % todo.length)

/-- A trailing byte to copy next: one still to be read, or one read and still to be written. -/
def tailChoice (pick : Nat) (toRead : List Nat) (toWrite : List (Nat × Byte)) : Option (Nat ⊕ (Nat × Byte)) :=
  chosen pick (toRead.map Sum.inl ++ toWrite.map Sum.inr)

/-- The master-port access the next micro-step makes, if it makes one (43_buffer_transform R188). -/
def nextAccess (o : Operands) (pick : Nat) (p : Progress) : Option Access :=
  match p with
  | .read j todo _ => (chosen pick todo).map (fun k => ⟨.read, o.src.toNat + 8 * j + k.val⟩)
  | .write j todo _ _ => (chosen pick todo).map (fun k => ⟨.write, o.dst.toNat + 8 * j + k.val⟩)
  | .tail toRead toWrite =>
    (tailChoice pick toRead toWrite).map (fun x =>
      match x with
      | .inl m => ⟨.read, o.src.toNat + m⟩
      | .inr c => ⟨.write, o.dst.toNat + c.1⟩)
  | .checks => none
  | .sched _ _ _ _ => none
  | .block _ _ _ => none
  | .rounds _ _ _ _ => none

/-- The running command `r` with new progress. -/
def State.goTo (s : State) (r : Run) (p : Progress) : State := { s with seq := .busy { r with progress := p } }

/-- Memory with the bytes the command wrote, oldest first. -/
def commit (out : List Host.Cell) (m : Memory) : Memory := out.foldr (fun c m => m.write c.1 c.2) m

/-- The checks a command makes first, in the order of 60_exceptions R210. -/
def tickChecks (i : Instr) (r : Run) (s : State) : State :=
  match i with
  | .schedule =>
    if sKeylen r.ops.keylen ≤ 0 then s.scheduleFailed
    else
      State.goTo { s with cipher := keyedTables r.ops.key (sKeylen r.ops.keylen).toNat } r (.sched 0 0 0#32 0#32)
  | .encBlock => if s.keyed then s.goTo r (.block 0 r.ops.blkL r.ops.blkR) else s.complete .notKeyed
  | .decBlock => if s.keyed then s.goTo r (.block 0 r.ops.blkL r.ops.blkR) else s.complete .notKeyed
  | .encBuf =>
    match bufferRefusal s.keyed r.ops with
    | some code => s.complete code
    | none => s.goTo r (r.ops.atBlock 0)
  | .decBuf =>
    match bufferRefusal s.keyed r.ops with
    | some code => s.complete code
    | none => s.goTo r (r.ops.atBlock 0)

/-- One round of encryption `n` of the schedule's step 4; after round 15 the pair is written into the tables
(40_key_schedule R137 to R139). -/
def tickSched (n round : Nat) (lr : Word × Word) (r : Run) (s : State) : State :=
  let next := roundStep .enc s.cipher round lr
  if round < 15 then s.goTo r (.sched n (round + 1) next.1 next.2)
  else
    let out := whiten .enc s.cipher next
    let t := writePair n out s.cipher
    if n < 520 then State.goTo { s with cipher := t } r (.sched (n + 1) 0 out.1 out.2)
    else s.scheduleDone t

/-- One round of a block command (42_block_transform R165, R166). -/
def tickBlock (d : Dir) (round : Nat) (lr : Word × Word) (r : Run) (s : State) : State :=
  let next := roundStep d s.cipher round lr
  if round < 15 then s.goTo r (.block (round + 1) next.1 next.2)
  else s.blockDone (whiten d s.cipher next)

/-- One byte read of block `j`, or, when all 8 are read, the step to its rounds (43_buffer_transform R182). -/
def tickRead (pick j : Nat) (todo : List (Fin 8)) (b : Vector Byte 8) (r : Run) (s : State) : State :=
  match chosen pick todo with
  | none => s.goTo r (.rounds j 0 (blockLeft b) (blockRight b))
  | some k =>
    s.goTo r (.read j (unchosen pick todo) (b.set k.val (s.mem.read (r.ops.src.toNat + 8 * j + k.val)) k.isLt))

/-- One round of block `j` (43_buffer_transform R182). -/
def tickRounds (d : Dir) (j round : Nat) (lr : Word × Word) (r : Run) (s : State) : State :=
  let next := roundStep d s.cipher round lr
  if round < 15 then s.goTo r (.rounds j (round + 1) next.1 next.2)
  else
    let out := whiten d s.cipher next
    s.goTo r (.write j allEight out.1 out.2)

/-- One byte write of block `j`, or, when all 8 are written, the step to the next block (43_buffer_transform R182). -/
def tickWrite (pick j : Nat) (todo : List (Fin 8)) (lr : Word × Word) (r : Run) (s : State) : State :=
  match chosen pick todo with
  | none => s.goTo r (r.ops.atBlock (j + 1))
  | some k =>
    s.goTo { r with out := (r.ops.dst.toNat + 8 * j + k.val, blockByte lr k.val) :: r.out }
      (.write j (unchosen pick todo) lr.1 lr.2)

/-- One read or write of a trailing byte, or, when none is left, the completion with OK (43_buffer_transform R182, R184). -/
def tickTail (pick : Nat) (toRead : List Nat) (toWrite : List (Nat × Byte)) (r : Run) (s : State) : State :=
  match tailChoice pick toRead toWrite with
  | none => s.bufferDone r.ops r.raced (commit r.out s.mem)
  | some (.inl m) => s.goTo r (.tail (toRead.erase m) ((m, s.mem.read (r.ops.src.toNat + m)) :: toWrite))
  | some (.inr c) =>
    s.goTo { r with out := (r.ops.dst.toNat + c.1, c.2) :: r.out } (.tail toRead (toWrite.erase c))

/-- One micro-step of command `i`, by its progress. -/
def tickProgress (pick : Nat) (i : Instr) (r : Run) (s : State) : State :=
  match r.progress with
  | .checks => tickChecks i r s
  | .sched n round l h => tickSched n round (l, h) r s
  | .block round l h => tickBlock (cipherDir i) round (l, h) r s
  | .read j todo b => tickRead pick j todo b r s
  | .rounds j round l h => tickRounds (cipherDir i) j round (l, h) r s
  | .write j todo l h => tickWrite pick j todo (l, h) r s
  | .tail toRead toWrite => tickTail pick toRead toWrite r s

/-- The next access gets an error response from the platform (43_buffer_transform R191). -/
def accessFails (p : Platform) (x : Option Access) : Bool :=
  match x with
  | none => false
  | some x => p.busErr x

/-- One micro-step of the engine: it does nothing when idle; an access that gets an error response ends the command with
BUS_ERROR at once (43_buffer_transform R182, R191). -/
def State.tick (s : State) (pick : Nat) : State :=
  match s.seq with
  | .idle => s
  | .busy r =>
    match decode r.word with
    | .error _ => s.illegalCommand
    | .ok i =>
      if accessFails s.platform (nextAccess r.ops pick r.progress) then s.bufferFailed r.ops
      else tickProgress pick i r s

end Sys2Proof.Machine
end

