-- ==== Sys2Proof/Machine/HostPort.lean ====
section
/-! DEFINITION. What the host and the reset input do to the machine: the CSR port (10_state R31 to R49), host loads and
stores of master-port memory (20_memory R91 to R93) through host caches (R97), and reset (70_reset_and_hazards R240 to R243). -/

namespace Sys2Proof.Machine

/-- The size of the CSR window in bytes (10_state R31). -/
def csrWindow : Nat := 0x100

/-- The offset of a register (10_state R31). -/
def regOffset (r : Reg) : Nat :=
  match r with
  | .id => 0x000
  | .ctrl => 0x004
  | .cmd => 0x008
  | .status => 0x00C
  | .keylen => 0x010
  | .src => 0x014
  | .dst => 0x018
  | .len => 0x01C
  | .blkL => 0x020
  | .blkR => 0x024
  | .key j => 0x040 + 4 * j.val

/-- The register at an aligned offset; none at a reserved offset (10_state R31, R47). -/
def regAt (offset : Nat) : Option Reg :=
  if offset = 0x000 then some .id
  else if offset = 0x004 then some .ctrl
  else if offset = 0x008 then some .cmd
  else if offset = 0x00C then some .status
  else if offset = 0x010 then some .keylen
  else if offset = 0x014 then some .src
  else if offset = 0x018 then some .dst
  else if offset = 0x01C then some .len
  else if offset = 0x020 then some .blkL
  else if offset = 0x024 then some .blkR
  else if h : 0x040 ≤ offset ∧ offset ≤ 0x084 then some (.key ⟨(offset - 0x040) / 4, by omega⟩)
  else none

/-- The value of ID (10_state R32). -/
def idValue : Word := 0x424C4631#32

/-- A host read of a register; no read has a side effect (10_state R31 to R46, 20_memory R88). -/
def State.readReg (s : State) (r : Reg) : Word :=
  match r with
  | .id => idValue
  | .ctrl => s.ctrlWord
  | .cmd => 0#32
  | .status => s.statusWord
  | .keylen => s.keylen
  | .src => s.src
  | .dst => s.dst
  | .len => s.len
  | .blkL => s.blkL
  | .blkR => s.blkR
  | .key j => s.key[j]

/-- A host write that BUSY blocks: taken when idle, else ignored and OVR <- 1 (10_state R49). -/
def State.unlessBusy (s : State) (taken : State) : State :=
  if s.busy then { s with ovr := true } else taken

/-- A host write of a register (10_state R32 to R46, R49). -/
def State.writeReg (s : State) (r : Reg) (v : Word) : State :=
  match r with
  | .id => s
  | .ctrl => s.writeCtrl v
  | .cmd => s.unlessBusy (s.accept v)
  | .status => s.writeStatus v
  | .keylen => s.unlessBusy { s with keylen := v }
  | .src => s.unlessBusy { s with src := v }
  | .dst => s.unlessBusy { s with dst := v }
  | .len => s.unlessBusy { s with len := v }
  | .blkL => s.unlessBusy { s with blkL := v }
  | .blkR => s.unlessBusy { s with blkR := v }
  | .key j => s.unlessBusy { s with key := s.key.set j.val v j.isLt }

/-- The host bus's answer is recorded. -/
def State.respond (s : State) (x : Response) : State := { s with response := x }

/-- A host address lies in the CSR window (10_state R31). -/
def State.inWindow (s : State) (addr : Nat) : Bool := inRange s.platform.base csrWindow addr

/-- The CSR port accepts only 32-bit accesses at a multiple of 4 (10_state R48). -/
def csrAccessOk (offset size : Nat) : Bool := size == 4 && offset % 4 == 0

/-- A STATUS read that returns DONE = 1 or BUSY = 0 is what observes the completions: every write of those commands is visible to
the host accesses after it (20_memory R92). It changes nothing in BF-CORE (R88), only what is left to observe. -/
def State.observe (s : State) : State := if s.done || !s.busy then { s with unobserved := [] } else s

/-- What a host read of register `r` does beside its answer: only a STATUS read observes (20_memory R92); `irq` alone does
not. -/
def State.afterRead (s : State) (r : Reg) : State := if r = .status then s.observe else s

/-- A host read at a host address: not BF-CORE's outside the window (assumption log 8), an error response when ill formed
(10_state R48), zero at a reserved offset (R47). -/
def State.csrRead (s : State) (addr size : Nat) : State :=
  if !s.inWindow addr then s
  else if !csrAccessOk (addr - s.platform.base) size then s.respond .error
  else
    match regAt (addr - s.platform.base) with
    | none => s.respond (.data 0#32)
    | some r => (s.afterRead r).respond (.data (s.readReg r))

/-- A host write at a host address: not BF-CORE's outside the window (assumption log 8), an error response when ill formed
(10_state R48), ignored at a reserved offset (R47). -/
def State.csrWrite (s : State) (addr size : Nat) (v : Word) : State :=
  if !s.inWindow addr then s
  else if !csrAccessOk (addr - s.platform.base) size then s.respond .error
  else
    match regAt (addr - s.platform.base) with
    | none => s.respond .written
    | some r => (s.writeReg r v).respond .written

/-- The byte a running buffer command has written to this address of [DST, DST+LEN): the new value of a racing host read
(20_memory R93, assumption log 12). -/
def State.newByte (s : State) (a : Nat) : Option Byte :=
  match s.seq with
  | .idle => none
  | .busy r => if r.ops.inDest a then r.out.lookup a else none

/-- The old values of a host read of address `a` that races with completed buffer commands, until software has observed their
completion (70_reset_and_hazards R252, 20_memory R92, R93, assumption log 19). -/
def State.oldBytes (s : State) (a : Nat) : List Byte :=
  (s.unobserved.filter (fun d => d.ops.inDest a)).map (fun d => d.before.read a)

/-- The values a host read of address `a` may return: the byte in memory, first, and where it races an old or a new one
(20_memory R93, 70_reset_and_hazards R252). -/
def State.raceBytes (s : State) (a : Nat) : List Byte := s.mem.read a :: ((s.newByte a).toList ++ s.oldBytes a)

/-- A byte of memory as the host side reads it, as `pick` chooses (20_memory R93). -/
def State.raceRead (s : State) (a pick : Nat) : Byte := (chosen pick (s.raceBytes a)).getD (s.mem.read a)

/-- A host load of one byte: its cached copy (20_memory R97), or the byte of memory (R93). -/
def State.hostLoad (s : State) (a : Word) (pick : Nat) : State :=
  match s.hostCopy a.toNat with
  | some b => s.respond (.byte b)
  | none => s.respond (.byte (s.raceRead a.toNat pick))

/-- The sequencer after a write at `a` that is not the running command's: one into a running buffer command's ranges races with
it (20_memory R93). -/
def Sequencer.noteStore (q : Sequencer) (a : Nat) : Sequencer :=
  match q with
  | .idle => .idle
  | .busy r =>
    if isBuffer r.word && (r.ops.inSource a || r.ops.inDest a) then .busy { r with raced := a :: r.raced }
    else .busy r

/-- The sequencer after several such writes. -/
def Sequencer.noteStores (q : Sequencer) (written : List Nat) : Sequencer := written.foldr (fun a q => q.noteStore a) q

/-- The destination addresses of a completed buffer command's blocks that a store at `a` affects (20_memory R93). -/
def Operands.affected (o : Operands) (a : Nat) : List Nat :=
  ((List.range o.len.toNat).filter (racedOffset o [a])).map (fun off => o.dst.toNat + off)

/-- A store at `a` that races with a completed buffer command, its completion not yet observed: the destination bytes of the
affected blocks are unspecified (70_reset_and_hazards R252, 20_memory R93). They change under a command that runs by now, which
is a race for that one (assumption log 19). -/
def State.spoil (s : State) (o : Operands) (a : Nat) : State :=
  if o.inSource a || o.inDest a then
    { s.drawDest o (racedOffset o [a]) with seq := s.seq.noteStores (o.affected a) }
  else s

/-- A store at `a` races with each of the completed commands `owed`. -/
def State.spoilAll (s : State) (a : Nat) (owed : List Completed) : State :=
  match owed with
  | [] => s
  | d :: rest => State.spoilAll (s.spoil d.ops a) a rest

/-- The races of a store at `a`: with the running command, and with every command whose completion is not observed
(20_memory R93, 70_reset_and_hazards R252). -/
def State.storeRaces (s : State) (a : Nat) : State :=
  State.spoilAll { s with seq := s.seq.noteStore a } a s.unobserved

/-- A byte arrives in memory from the host side; it is the old value of later races too (20_memory R91, R93). -/
def State.arrive (s : State) (a : Nat) (b : Byte) : State :=
  State.storeRaces
    { s with
      mem := s.mem.write a b
      unobserved := s.unobserved.map (fun d => { d with before := d.before.write a b }) }
    a

/-- The host's copy of a byte is written, and memory is not: the engine does not see the byte until it is cleaned. A store into
a buffer command's ranges is a race either way (20_memory R93, R97, assumption log 16). -/
def State.keep (s : State) (a : Nat) (b : Byte) : State :=
  State.storeRaces { s with cache := s.cache.put a b } a

/-- A host store of one byte: into memory on a platform that keeps its caches coherent, else into the host's copy
(20_memory R91, R93, R97). -/
def State.hostStore (s : State) (a : Word) (b : Byte) : State :=
  (if s.platform.coherent then s.arrive a.toNat b else s.keep a.toNat b).respond .written

/-- A host cache takes a copy of a byte that it holds no copy of (20_memory R97, assumption log 16). -/
def State.cacheFill (s : State) (a : Word) (pick : Nat) : State :=
  if s.platform.coherent || (s.cache.find a.toNat).isSome then s
  else { s with cache := s.cache.put a.toNat (s.raceRead a.toNat pick) }

/-- The host's copy of a byte, if there is one, goes to memory (20_memory R97, assumption log 16). -/
def State.cacheClean (s : State) (a : Word) : State :=
  match s.hostCopy a.toNat with
  | none => s
  | some b => s.arrive a.toNat b

/-- The host's copy of a byte is dropped (20_memory R97, assumption log 16). -/
def State.cacheInvalidate (s : State) (a : Word) : State :=
  if s.platform.coherent then s else { s with cache := s.cache.drop a.toNat }

/-- P and S of unspecified contents (10_state R53, 70_reset_and_hazards R240, R243). -/
def drawCipher (draws : Nat) : CipherState where
  p := ⟨((List.range 18).map (fun i => Config.freeWord (draws + i))).toArray, by simp⟩
  s := ⟨((List.range 4).map (fun b =>
      (⟨((List.range 256).map (fun i => Config.freeWord (draws + 18 + 256 * b + i))).toArray, by simp⟩ :
        Vector Word 256))).toArray, by simp⟩

/-- What a reset does to memory: nothing, but for the destination of a buffer command it abandons, every byte of which is
unspecified (70_reset_and_hazards R242, R243, assumption log 18). -/
def State.abandon (s : State) : State :=
  match s.seq with
  | .idle => s
  | .busy r => if isBuffer r.word then s.drawDest r.ops (fun _ => true) else s

/-- The reset input (70_reset_and_hazards R240 to R243): every CSR at its reset value, the sequencer IDLE, P and S
unspecified; memory, what is left to observe, host caches, the platform and what the agents do next stay. -/
def State.resetInput (s : State) : State :=
  { State.reset with
    cipher := drawCipher s.abandon.draws
    mem := s.abandon.mem
    unobserved := s.unobserved
    cache := s.cache
    platform := s.platform
    inputs := s.inputs
    draws := s.abandon.draws + 1042 }

end Sys2Proof.Machine
end

