-- ==== Sys2Proof/Machine/Step.lean ====
section
/-! DEFINITION. One step of the machine: the next thing an agent does. BF-CORE fetches nothing (20_memory R96): a command
comes to the engine by acceptance, and the engine runs the word its sequencer has latched (10_state R56). -/

namespace Sys2Proof.Machine

/-- What one event does (assumption log 1). -/
def handle (e : Event) (s : State) : Host.Outcome State Fault Refusal :=
  match e with
  | .csrRead addr size => .next (s.csrRead addr size)
  | .csrWrite addr size v => .next (s.csrWrite addr size v)
  | .memRead a pick => .next (s.hostLoad a pick)
  | .memWrite a b => .next (s.hostStore a b)
  | .cacheFill a pick => .next (s.cacheFill a pick)
  | .cacheClean a => .next (s.cacheClean a)
  | .cacheInvalidate a => .next (s.cacheInvalidate a)
  | .reset => .next s.resetInput
  | .tick pick => .next (s.tick pick)
  | .finish => engineRun s

/-- One step: the first event of `inputs`, and when none is left the engine's own move: it runs the latched command to its
completion, or waits when idle (70_reset_and_hazards R240, R260; assumption logs 1 and 3). -/
def step (s : State) : Host.Outcome State Fault Refusal :=
  match s.inputs with
  | [] => engineRun s
  | e :: rest => handle e { s with inputs := rest }

/-- `s` with the command word `w` accepted and the engine to move next, so that the very next step runs it. A command is
never fetched from memory: acceptance latches it in the sequencer (10_state R56, assumption log 2). -/
def State.withFetchWord (s : State) (nbits w : Nat) : State :=
  { s.accept (BitVec.ofNat 32 (w % 2 ^ nbits)) with inputs := .finish :: s.inputs }

end Sys2Proof.Machine
end

