-- ==== Sys2Proof/Machine/HostProgram.lean ====
section
/-! DEFINITION. The host-access notation of 30_encoding R120 to R125: what a line of a host program is as a list of events.
A host program is put into `inputs`; the base address is the platform's BF_BASE. Beside it the cache maintenance of 20_memory
R97. -/

namespace Sys2Proof.Machine

/-- `WR <REG>, <value>` (30_encoding R120). -/
def wr (base : Nat) (r : Reg) (v : Word) : List Event := [.csrWrite (base + regOffset r) 4 v]

/-- `RD <REG>` (30_encoding R121). -/
def rd (base : Nat) (r : Reg) : List Event := [.csrRead (base + regOffset r) 4]

/-- `CMD <MNEMONIC>` (30_encoding R122). -/
def cmd (base : Nat) (i : Instr) : List Event := wr base .cmd (encode i)

/-- `CMD 0x<hex>` (30_encoding R122). -/
def cmdWord (base : Nat) (w : Word) : List Event := wr base .cmd w

/-- `WAIT` (30_encoding R123) that sees BUSY = 1 `polls` times: any number is admitted (70_reset_and_hazards R260). The
command completes before the read that ends the loop. -/
def wait (base polls : Nat) : List Event :=
  (List.replicate polls (.csrRead (base + regOffset .status) 4)) ++ [.finish] ++ rd base .status

/-- Byte `n` of a byte list, 0x00 past its end (30_encoding R124). -/
def byteOr0 (bytes : List Byte) (n : Nat) : Byte := bytes[n]?.getD 0#8

/-- `LOADKEY <hex bytes>` (30_encoding R124): each KEYj with 4j < n, then KEYLEN. R125 has no KEYj past KEY17, and R124 does not
say what becomes of a line of more than 72 bytes: that the bytes past index 71 are dropped and KEYLEN is still the number given
(modulo 2^32) is the model's choice, assumption log 21. -/
def loadKey (base : Nat) (bytes : List Byte) : List Event :=
  ((List.finRange 18).filter (fun j => 4 * j.val < bytes.length)).flatMap (fun j =>
      wr base (.key j) (be32 (byteOr0 bytes (4 * j.val)) (byteOr0 bytes (4 * j.val + 1))
        (byteOr0 bytes (4 * j.val + 2)) (byteOr0 bytes (4 * j.val + 3))))
    ++ wr base .keylen (BitVec.ofNat 32 bytes.length)

/-- The events `one` at the `n` ascending addresses from `a`. -/
def overRange (one : Word → Event) (a : Word) (n : Nat) : List Event :=
  match n with
  | 0 => []
  | n + 1 => one a :: overRange one (a + 1#32) n

/-- The host cleans `n` bytes from `a`: what 20_memory R97 asks of it for the source range before the CMD write. -/
def cleanRange (a : Word) (n : Nat) : List Event := overRange .cacheClean a n

/-- The host invalidates `n` bytes from `a`: what 20_memory R97 asks of it for the destination range after the completion. -/
def invalidateRange (a : Word) (n : Nat) : List Event := overRange .cacheInvalidate a n

/-- `MEM <address>: <hex bytes>` (30_encoding R124): host stores at ascending addresses, before the program starts. The bytes
are in memory then, so no cache keeps a copy (assumption log 16). The byte after the one at 0xFFFFFFFF goes to address 0: R124
says nothing of a line that runs past the last address, and the wrap is the model's choice (assumption log 20). -/
def memBytes (a : Word) (bytes : List Byte) : List Event :=
  match bytes with
  | [] => []
  | b :: rest => .memWrite a b :: .cacheClean a :: .cacheInvalidate a :: memBytes (a + 1#32) rest

end Sys2Proof.Machine
end

