-- ==== Sys2Proof/Safety.lean ====
section
/-! DEFINITION. The terms claims about BF-CORE are stated in: the result bytes of a buffer command (43_buffer_transform R189),
the invariants of the machine (10_state R36 to R40, R55, R56), the bound on the engine's remaining micro-steps
(70_reset_and_hazards R260) and the accesses they make (43_buffer_transform R188). -/

namespace Sys2Proof.Safety

open Sys2Proof.Machine

/-- The halves of source block `j`: be32 of its bytes 0..3 and of its bytes 4..7 (43_buffer_transform R189). -/
def sourceBlock (m : Memory) (src j : Nat) : Word × Word :=
  (be32 (m.read (src + 8 * j)) (m.read (src + 8 * j + 1)) (m.read (src + 8 * j + 2)) (m.read (src + 8 * j + 3)),
    be32 (m.read (src + 8 * j + 4)) (m.read (src + 8 * j + 5)) (m.read (src + 8 * j + 6)) (m.read (src + 8 * j + 7)))

/-- dst'[off] of 43_buffer_transform R189 for the block transform `T` and a buffer of `nb` whole blocks at `src`. -/
def resultByte (T : Word × Word → Word × Word) (m : Memory) (src nb off : Nat) : Byte :=
  if off < 8 * nb then blockByte (T (sourceBlock m src (off / 8))) (off % 8) else m.read (src + off)

/-- How many bytes at each end a buffer command accesses: all of the buffer, or only its whole blocks in place
(43_buffer_transform R188, 70_reset_and_hazards R261). -/
def accessedBytes (o : Operands) : Nat := if o.src = o.dst then 8 * o.blocks else o.len.toNat

/-- No master-port access of the command gets an error response (43_buffer_transform R191). -/
def BusClear (p : Platform) (o : Operands) : Prop :=
  ∀ off, off < accessedBytes o →
    p.busErr ⟨.read, o.src.toNat + off⟩ = false ∧ p.busErr ⟨.write, o.dst.toNat + off⟩ = false

/-- KEYED = 1, the ranges end inside the address space and do not partly overlap: the checks of a buffer command pass
(43_buffer_transform R182, R186, R187). -/
def ChecksPass (keyed : Bool) (o : Operands) : Prop :=
  keyed = true ∧
    (o.len.toNat = 0 ∨
      (o.src.toNat + o.len.toNat ≤ 2 ^ 32 ∧ o.dst.toNat + o.len.toNat ≤ 2 ^ 32 ∧
        (o.src = o.dst ∨ o.src.toNat + o.len.toNat ≤ o.dst.toNat ∨ o.dst.toNat + o.len.toNat ≤ o.src.toNat)))

/-- The progress is one the command can be in, with its round and step counters in range (10_state R55). -/
def progressFits (i : Instr) (o : Operands) (p : Progress) : Prop :=
  match p with
  | .checks => True
  | .sched n round _ _ => i = .schedule ∧ n ≤ 520 ∧ round ≤ 15
  | .block round _ _ => (i = .encBlock ∨ i = .decBlock) ∧ round ≤ 15
  | .read j _ _ => (i = .encBuf ∨ i = .decBuf) ∧ j < o.blocks
  | .rounds j round _ _ => (i = .encBuf ∨ i = .decBuf) ∧ j < o.blocks ∧ round ≤ 15
  | .write j _ _ _ => (i = .encBuf ∨ i = .decBuf) ∧ j < o.blocks
  | .tail _ _ => i = .encBuf ∨ i = .decBuf

/-- The running command's progress fits its word; a word that decodes as ILLEGAL never gets past acceptance. -/
def RunFits (r : Run) : Prop :=
  match decode r.word with
  | .ok i => progressFits i r.ops r.progress
  | .error _ => r.progress = .checks

/-- A SCHEDULE in encryption `n`, before round `round`, has the tables and the halves the key schedule has there
(40_key_schedule R137 to R139). -/
def ScheduleProgress (t : CipherState) (o : Operands) (p : Progress) : Prop :=
  match p with
  | .sched n round l h =>
    0 < sKeylen o.keylen ∧ t = (chain o.key (sKeylen o.keylen).toNat n).1 ∧
      (l, h) = loop round (roundStep .enc t) (chain o.key (sKeylen o.keylen).toNat n).2
  | .checks => True
  | .block _ _ _ => True
  | .read _ _ _ => True
  | .rounds _ _ _ _ => True
  | .write _ _ _ _ => True
  | .tail _ _ => True

/-- A block command before round `round` holds the halves the block transform has there (42_block_transform R164). -/
def BlockProgress (d : Dir) (t : CipherState) (keyed : Bool) (o : Operands) (p : Progress) : Prop :=
  match p with
  | .block round l h => keyed = true ∧ (l, h) = loop round (roundStep d t) (o.blkL, o.blkR)
  | .checks => True
  | .sched _ _ _ _ => True
  | .read _ _ _ => True
  | .rounds _ _ _ _ => True
  | .write _ _ _ _ => True
  | .tail _ _ => True

/-- The invariant of the machine. -/
structure Inv (s : State) : Prop where
  /-- Memory is in canonical form. -/
  memory : Memory.wf s.mem
  /-- BF_BASE is 256-byte aligned (00_scope R9). -/
  base : s.platform.base % 256 = 0
  /-- What host caches hold is in canonical form (assumption log 16). -/
  copies : Cache.wf s.cache
  /-- On a platform that keeps its caches coherent they hold nothing that memory does not (20_memory R97). -/
  coherent : s.platform.coherent = true → s.cache = []
  /-- Memory before a command whose completion is not observed is in canonical form. -/
  owed : ∀ d ∈ s.unobserved, Memory.wf d.before
  /-- DONE is 0 and ERR is OK while a command runs (10_state R37, R40). -/
  flags : ∀ r, s.seq = .busy r → s.done = false ∧ s.err = .ok
  /-- The latched operands are the registers' values (10_state R56). -/
  latched : ∀ r, s.seq = .busy r → r.ops = s.latch
  /-- The progress fits the latched command (10_state R55). -/
  fits : ∀ r, s.seq = .busy r → RunFits r
  /-- KEYED is 0 while SCHEDULE runs (10_state R38). -/
  unkeyed : ∀ r, s.seq = .busy r → isSchedule r.word = true → s.keyed = false
  /-- The tables of a running SCHEDULE (40_key_schedule R139). -/
  tables : ∀ r, s.seq = .busy r → ScheduleProgress s.cipher r.ops r.progress
  /-- KEYED = 1 only when P and S hold the result of a SCHEDULE that completed with OK (10_state R38). -/
  scheduled : s.keyed = true → ∃ key len, 0 < len ∧ s.cipher = scheduleTables key len

/-- The destination byte at offset `off` has been written by the running command (43_buffer_transform R188). -/
def written (o : Operands) (p : Progress) (off : Nat) : Prop :=
  match p with
  | .read j _ _ => off < 8 * j
  | .rounds j _ _ _ => off < 8 * j
  | .write j todo _ _ => off < 8 * j ∨ (off / 8 = j ∧ ∀ k ∈ todo, k.val ≠ off % 8)
  | .tail toRead toWrite =>
    off < 8 * o.blocks ∨
      (o.src ≠ o.dst ∧ off < o.len.toNat ∧ off ∉ toRead ∧ ∀ c ∈ toWrite, c.1 ≠ off)
  | .checks => False
  | .sched _ _ _ _ => False
  | .block _ _ _ => False

/-- Every byte a running command holds as written lies in its destination, and so does every trailing byte it still copies
(43_buffer_transform R189). -/
def OutInDest (s : State) : Prop :=
  ∀ r, s.seq = .busy r →
    (∀ c ∈ r.out, r.ops.inDest c.1 = true) ∧
      ∀ toRead toWrite, r.progress = .tail toRead toWrite →
        ∀ off ∈ toRead ++ toWrite.map Prod.fst, off < r.ops.len.toNat

/-- The source byte at offset `off` was read without an error response. -/
def readClear (p : Platform) (o : Operands) (off : Nat) : Prop := p.busErr ⟨.read, o.src.toNat + off⟩ = false

/-- A host store at `a` leaves the byte at `x` unspecified: `x` lies in the destination, in a block the store affects, of a buffer
command whose completion is not observed (20_memory R93, 70_reset_and_hazards R252). -/
def Spoils (owed : List Completed) (a x : Nat) : Prop :=
  ∃ d ∈ owed, d.ops.inDest x = true ∧ racedOffset d.ops [a] (x - d.ops.dst.toNat) = true

/-- What the working values of a running buffer command hold, for blocks no host raced with (43_buffer_transform R182). -/
def BufferWorking (T : Word × Word → Word × Word) (d : Dir) (s : State) (r : Run) : Prop :=
  match r.progress with
  | .read j todo b =>
    j < r.ops.blocks ∧ todo.Nodup ∧
      ∀ k : Fin 8, k ∉ todo →
        readClear s.platform r.ops (8 * j + k.val) ∧
          (racedOffset r.ops r.raced (8 * j) = false → b[k] = s.mem.read (r.ops.src.toNat + 8 * j + k.val))
  | .rounds j round l h =>
    j < r.ops.blocks ∧ round ≤ 15 ∧ (∀ k, k < 8 → readClear s.platform r.ops (8 * j + k)) ∧
      (racedOffset r.ops r.raced (8 * j) = false →
        (l, h) = loop round (roundStep d s.cipher) (sourceBlock s.mem r.ops.src.toNat j))
  | .write j todo l h =>
    j < r.ops.blocks ∧ todo.Nodup ∧ (∀ k, k < 8 → readClear s.platform r.ops (8 * j + k)) ∧
      (racedOffset r.ops r.raced (8 * j) = false → (l, h) = T (sourceBlock s.mem r.ops.src.toNat j))
  | .tail toRead toWrite =>
    (toRead ++ toWrite.map Prod.fst).Nodup ∧
      (∀ off ∈ toRead ++ toWrite.map Prod.fst, r.ops.src ≠ r.ops.dst ∧ 8 * r.ops.blocks ≤ off ∧ off < r.ops.len.toNat) ∧
      ∀ c ∈ toWrite,
        readClear s.platform r.ops c.1 ∧
          (racedOffset r.ops r.raced c.1 = false → c.2 = s.mem.read (r.ops.src.toNat + c.1))
  | .checks => True
  | .sched _ _ _ _ => False
  | .block _ _ _ => False

/-- A running buffer command past its checks: they passed; what it holds as written is exactly the bytes its progress says,
each once, with the value of 43_buffer_transform R189 where no host raced; no access so far got an error response. -/
structure BufferOk (T : Word × Word → Word × Word) (d : Dir) (s : State) (r : Run) : Prop where
  passed : r.progress ≠ .checks → ChecksPass s.keyed r.ops
  working : BufferWorking T d s r
  outWritten : ∀ c ∈ r.out, ∃ off, c.1 = r.ops.dst.toNat + off ∧ off < r.ops.len.toNat ∧ written r.ops r.progress off
  outOnce : (r.out.map Prod.fst).Nodup
  outValue : ∀ off, off < r.ops.len.toNat → written r.ops r.progress off →
    readClear s.platform r.ops off ∧ s.platform.busErr ⟨.write, r.ops.dst.toNat + off⟩ = false ∧
      ∃ b, (r.ops.dst.toNat + off, b) ∈ r.out ∧
        (racedOffset r.ops r.raced off = false →
          b = resultByte T s.mem r.ops.src.toNat r.ops.blocks off)

/-- The running buffer command, if one runs, is as `BufferOk` says. -/
def BufferInv (s : State) : Prop :=
  Memory.wf s.mem ∧
    ∀ r, s.seq = .busy r →
      (decode r.word = .ok .encBuf → BufferOk (encryptBlock s.cipher) .enc s r) ∧
        (decode r.word = .ok .decBuf → BufferOk (decryptBlock s.cipher) .dec s r)

/-- A bound on the micro-steps a block and all later ones still take: 9 reads, 16 rounds and 9 writes each. -/
def blockTicks (o : Operands) (j : Nat) : Nat := 40 * (o.blocks - j)

/-- A bound on the micro-steps of the trailing bytes and the completion. -/
def tailTicks (o : Operands) : Nat := 2 * (o.len.toNat % 8) + 1

/-- A bound on the micro-steps left to the command's completion (70_reset_and_hazards R260). -/
def ticksLeft (s : State) : Nat :=
  match s.seq with
  | .idle => 0
  | .busy r =>
    match r.progress with
    | .checks => 8900 + blockTicks r.ops 0 + tailTicks r.ops
    | .sched n round _ _ => 1 + 17 * (521 - n) + (16 - round)
    | .block round _ _ => 1 + (16 - round)
    | .read j todo _ => blockTicks r.ops (j + 1) + tailTicks r.ops + 28 + todo.length
    | .rounds j round _ _ => blockTicks r.ops (j + 1) + tailTicks r.ops + 10 + (16 - round)
    | .write j todo _ _ => blockTicks r.ops (j + 1) + tailTicks r.ops + 1 + todo.length
    | .tail toRead toWrite => 1 + 2 * toRead.length + toWrite.length

/-- The machine after the engine's micro-steps with the given choices. -/
def tickAll (picks : List Nat) (s : State) : State := picks.foldl State.tick s

/-- The master-port accesses those micro-steps make, in order (43_buffer_transform R188). -/
def accesses (picks : List Nat) (s : State) : List Access :=
  match picks with
  | [] => []
  | pick :: rest =>
    (match s.seq with
      | .idle => []
      | .busy r => (nextAccess r.ops pick r.progress).toList) ++ accesses rest (s.tick pick)

/-- The machine after `n` steps. -/
def stepAll (n : Nat) (s : State) : State :=
  match n with
  | 0 => s
  | n + 1 =>
    match step s with
    | .next t => stepAll n t
    | .fault _ => s
    | .refused _ => s

/-- The eight one-byte accesses of one kind to the block at `first`. -/
def blockAccesses (kind : AccessKind) (first : Nat) : List Access :=
  (List.range 8).map (fun k => ⟨kind, first + k⟩)

end Sys2Proof.Safety
end

