-- ==== Sys2Proof/Certificates/Slice0/Obligations.lean ====
section
/-! DEFINITION. The statements about BF-CORE, each from numbered rules of spec/. A statement that gives a next state writes the
whole record, so that it says the frame as well: every field it does not name is unchanged. -/

open Sys2Proof Sys2Proof.Machine Sys2Proof.Safety

/-- 30_encoding R114: the opcode map, with words written out from R110's fields (OP in bits 3:0, RSV zero), and the same
words as the opcode table numbers them. -/
def Obligations.OpcodeMapDecodes : Prop :=
  decode 0x00000000#32 = .error .illegalOp ∧
  decode 0x00000001#32 = .ok .schedule ∧
  decode 0x00000002#32 = .ok .encBlock ∧
  decode 0x00000003#32 = .ok .decBlock ∧
  decode 0x00000004#32 = .ok .encBuf ∧
  decode 0x00000005#32 = .ok .decBuf ∧
  (∀ op : Fin 16, 6 ≤ op.val → decode (BitVec.ofNat 32 op.val) = .error .illegalOp) ∧
  decodeTableWord 32 0x1 = some .schedule ∧
  decodeTableWord 32 0x2 = some .encBlock ∧
  decodeTableWord 32 0x3 = some .decBlock ∧
  decodeTableWord 32 0x4 = some .encBuf ∧
  decodeTableWord 32 0x5 = some .decBuf

/-- 30_encoding R117: Decode, on every 32-bit word, by the numbers of its two fields. -/
def Obligations.DecoderIsTheSpecsDecoder : Prop :=
  ∀ w : Word,
    (w.toNat / 16 ≠ 0 → ∃ e, decode w = .error e) ∧
    (w.toNat / 16 = 0 →
      (w.toNat % 16 = 1 → decode w = .ok .schedule) ∧
      (w.toNat % 16 = 2 → decode w = .ok .encBlock) ∧
      (w.toNat % 16 = 3 → decode w = .ok .decBlock) ∧
      (w.toNat % 16 = 4 → decode w = .ok .encBuf) ∧
      (w.toNat % 16 = 5 → decode w = .ok .decBuf) ∧
      (w.toNat % 16 = 0 ∨ 6 ≤ w.toNat % 16 → ∃ e, decode w = .error e))

/-- 30_encoding R114: encoding and decoding agree, in both directions: every command's word decodes to it, and it is the only
word that does. -/
def Obligations.EncodeAndDecodeAgree : Prop :=
  (∀ i : Instr, i.wellFormed = true → decode (encode i) = .ok i) ∧
  (∀ (w : Word) (i : Instr), decode w = .ok i → w = encode i ∧ WellFormed.commandWord w = true)

/-- 20_memory R81, R82: a word formed from four bytes has the first as its most significant, and a word goes back to its
bytes. -/
def Obligations.WordsAreBigEndian : Prop :=
  (∀ b0 b1 b2 b3 : Byte,
    (be32 b0 b1 b2 b3).toNat = b0.toNat * 2 ^ 24 + b1.toNat * 2 ^ 16 + b2.toNat * 2 ^ 8 + b3.toNat) ∧
  (∀ (p : Platform) (m : Memory) (a : Nat), (∀ k, k < 4 → p.busErr ⟨.read, a + k⟩ = false) →
    loadWord p m a = some (be32 (m.read a) (m.read (a + 1)) (m.read (a + 2)) (m.read (a + 3)))) ∧
  (∀ (p : Platform) (m : Memory) (a : Nat) (w : Word), Memory.wf m → (∀ k, k < 4 → p.busErr ⟨.write, a + k⟩ = false) →
    ∃ m', storeWord p m a w = some m' ∧
      (m'.read a).toNat = w.toNat / 2 ^ 24 ∧ (m'.read (a + 1)).toNat = w.toNat / 2 ^ 16 % 2 ^ 8 ∧
      (m'.read (a + 2)).toNat = w.toNat / 2 ^ 8 % 2 ^ 8 ∧ (m'.read (a + 3)).toNat = w.toNat % 2 ^ 8 ∧
      ∀ x, x < a ∨ a + 4 ≤ x → m'.read x = m.read x)

/-- 10_state R46: KeyByte(n) is the field [31-8(n mod 4) : 24-8(n mod 4)] of KEY(n div 4). -/
def Obligations.KeyBytesAreBigEndianInTheKeyRegisters : Prop :=
  ∀ (key : Vector Word 18) (n : Nat) (h : n ≤ 71),
    (keyByte key n).toNat = (key[n / 4]'(by omega)).toNat / 2 ^ (24 - 8 * (n % 4)) % 2 ^ 8

/-! ## The CSR port -/

/-- 10_state R31 to R46, 20_memory R88: a 32-bit host read at each register's offset returns that register and has no side
effect. -/
def Obligations.CsrReadsReturnTheRegisters : Prop :=
  ∀ (s : State) (offset : Nat) (v : Word) (rest : List Event),
    ((offset = 0x000 ∧ v = 0x424C4631#32) ∨ (offset = 0x004 ∧ v = if s.ie then 1#32 else 0#32) ∨
      (offset = 0x008 ∧ v = 0#32) ∨ (offset = 0x010 ∧ v = s.keylen) ∨ (offset = 0x014 ∧ v = s.src) ∨
      (offset = 0x018 ∧ v = s.dst) ∨ (offset = 0x01C ∧ v = s.len) ∨ (offset = 0x020 ∧ v = s.blkL) ∨
      (offset = 0x024 ∧ v = s.blkR) ∨ (∃ j : Fin 18, offset = 0x040 + 4 * j.val ∧ v = s.key[j])) →
    s.inputs = .csrRead (s.platform.base + offset) 4 :: rest →
    step s = .next { s with inputs := rest, response := .data v }

/-- 10_state R35, 20_memory R92, 70_reset_and_hazards R252: STATUS is zero after reset; the fields a read of it returns, with no side effect
in BF-CORE; and the write-one-to-clear effect of a write, which is never ignored and never sets OVR. In every state, idle or BUSY.
A read that returns DONE = 1 or BUSY = 0 observes the completions: it empties the record of those not yet observed, which is the
model's own and no register of BF-CORE (assumption log 19). -/
def Obligations.StatusRegister : Prop :=
  State.reset.statusWord = 0#32 ∧
  (∀ (s : State) (rest : List Event), s.inputs = .csrRead (s.platform.base + 0x00C) 4 :: rest →
    ∃ w : Word, step s = .next { s with
        inputs := rest
        response := .data w
        unobserved := if w.getLsbD 1 = true ∨ w.getLsbD 0 = false then [] else s.unobserved } ∧
      w.getLsbD 0 = s.busy ∧ w.getLsbD 1 = s.done ∧ w.getLsbD 2 = s.keyed ∧ w.getLsbD 3 = s.ovr ∧
      w.extractLsb' 4 4 = 0#4 ∧ w.extractLsb' 8 4 = s.err.code ∧ w.extractLsb' 12 20 = 0#20) ∧
  (∀ (s : State) (v : Word) (rest : List Event), s.inputs = .csrWrite (s.platform.base + 0x00C) 4 v :: rest →
    step s = .next { s with
      done := if v.getLsbD 1 then false else s.done
      ovr := if v.getLsbD 3 then false else s.ovr
      inputs := rest
      response := .written })

/-- 10_state R33: CTRL.IE is 0 after reset; a read of CTRL returns it in bit 0 and zero in the reserved bits; a write sets IE from
bit 0 and nothing else. In every state, idle or BUSY. -/
def Obligations.CtrlRegister : Prop :=
  State.reset.ie = false ∧
  (∀ (s : State) (rest : List Event), s.inputs = .csrRead (s.platform.base + 0x004) 4 :: rest →
    ∃ w : Word, step s = .next { s with inputs := rest, response := .data w } ∧
      w.getLsbD 0 = s.ie ∧ w.extractLsb' 1 31 = 0#31) ∧
  (∀ (s : State) (v : Word) (rest : List Event), s.inputs = .csrWrite (s.platform.base + 0x004) 4 v :: rest →
    step s = .next { s with ie := v.getLsbD 0, inputs := rest, response := .written })

/-- 10_state R32: ID reads 0x424C4631 and a write to it changes nothing. -/
def Obligations.IdRegister : Prop :=
  (∀ (s : State) (rest : List Event), s.inputs = .csrRead (s.platform.base + 0x000) 4 :: rest →
    step s = .next { s with inputs := rest, response := .data 0x424C4631#32 }) ∧
  (∀ (s : State) (v : Word) (rest : List Event), s.inputs = .csrWrite (s.platform.base + 0x000) 4 v :: rest →
    step s = .next { s with inputs := rest, response := .written })

/-- 10_state R41 to R46: while idle, a write to an operand register gives it the value written and changes nothing else. -/
def Obligations.OperandWritesWhenIdle : Prop :=
  ∀ (s : State) (v : Word) (rest : List Event), s.seq = .idle →
    (s.inputs = .csrWrite (s.platform.base + 0x010) 4 v :: rest →
      step s = .next { s with keylen := v, inputs := rest, response := .written }) ∧
    (s.inputs = .csrWrite (s.platform.base + 0x014) 4 v :: rest →
      step s = .next { s with src := v, inputs := rest, response := .written }) ∧
    (s.inputs = .csrWrite (s.platform.base + 0x018) 4 v :: rest →
      step s = .next { s with dst := v, inputs := rest, response := .written }) ∧
    (s.inputs = .csrWrite (s.platform.base + 0x01C) 4 v :: rest →
      step s = .next { s with len := v, inputs := rest, response := .written }) ∧
    (s.inputs = .csrWrite (s.platform.base + 0x020) 4 v :: rest →
      step s = .next { s with blkL := v, inputs := rest, response := .written }) ∧
    (s.inputs = .csrWrite (s.platform.base + 0x024) 4 v :: rest →
      step s = .next { s with blkR := v, inputs := rest, response := .written }) ∧
    (∀ j : Fin 18, s.inputs = .csrWrite (s.platform.base + 0x040 + 4 * j.val) 4 v :: rest →
      step s = .next { s with key := s.key.set j.val v j.isLt, inputs := rest, response := .written })

/-- 10_state R49: while BUSY, a write to CMD or an operand register leaves everything but OVR, which it sets; writes to CTRL,
STATUS and reserved offsets behave as when idle. -/
def Obligations.WritesWhileBusy : Prop :=
  ∀ (s : State) (r : Run) (v : Word) (offset : Nat) (rest : List Event), s.seq = .busy r →
    s.inputs = .csrWrite (s.platform.base + offset) 4 v :: rest →
    ((offset ∈ [0x008, 0x010, 0x014, 0x018, 0x01C, 0x020, 0x024] ∨ (∃ j : Fin 18, offset = 0x040 + 4 * j.val)) →
      step s = .next { s with ovr := true, inputs := rest, response := .written }) ∧
    (offset = 0x004 → step s = .next { s with ie := v.getLsbD 0, inputs := rest, response := .written }) ∧
    (offset = 0x00C →
      step s = .next { s with
        done := if v.getLsbD 1 then false else s.done
        ovr := if v.getLsbD 3 then false else s.ovr
        inputs := rest
        response := .written }) ∧
    (offset % 4 = 0 → (0x028 ≤ offset ∧ offset ≤ 0x03C) ∨ (0x088 ≤ offset ∧ offset ≤ 0x0FC) →
      step s = .next { s with inputs := rest, response := .written })

/-- 10_state R47: a reserved offset reads as zero and ignores writes, in every state. -/
def Obligations.ReservedOffsets : Prop :=
  ∀ (s : State) (v : Word) (offset : Nat) (rest : List Event), offset % 4 = 0 →
    (0x028 ≤ offset ∧ offset ≤ 0x03C) ∨ (0x088 ≤ offset ∧ offset ≤ 0x0FC) →
    (s.inputs = .csrRead (s.platform.base + offset) 4 :: rest →
      step s = .next { s with inputs := rest, response := .data 0#32 }) ∧
    (s.inputs = .csrWrite (s.platform.base + offset) 4 v :: rest →
      step s = .next { s with inputs := rest, response := .written })

/-- 60_exceptions R209: a CSR access that is not 32 bits wide and 4-byte aligned gets the error response and changes no
state. -/
def Obligations.IllFormedAccessGetsErrorResponse : Prop :=
  ∀ (s : State) (offset size : Nat) (v : Word) (rest : List Event), offset < 0x100 → size ≠ 4 ∨ offset % 4 ≠ 0 →
    (s.inputs = .csrRead (s.platform.base + offset) size :: rest ∨
      s.inputs = .csrWrite (s.platform.base + offset) size v :: rest) →
    step s = .next { s with inputs := rest, response := .error }

/-- 10_state R34, R36, R56 and 40_key_schedule R142: a CMD write while idle accepts the word, whatever it is: BUSY = 1,
DONE = 0, ERR = OK, the word and every operand register latched, KEYED cleared exactly by SCHEDULE's word, and nothing else
changes. (The run's progress, out and raced fields are the model's own, assumption logs 10, 11 and 14.) -/
def Obligations.CmdWriteAccepts : Prop :=
  ∀ (s : State) (w : Word) (rest : List Event), s.seq = .idle →
    s.inputs = .csrWrite (s.platform.base + 0x008) 4 w :: rest →
    step s = .next { s with
      done := false
      err := .ok
      keyed := if w = 0x00000001#32 then false else s.keyed
      seq := .busy {
        word := w
        ops := { keylen := s.keylen, key := s.key, src := s.src, dst := s.dst, len := s.len, blkL := s.blkL, blkR := s.blkR }
        progress := .checks
        out := []
        raced := [] }
      inputs := rest
      response := .written }

/-- 10_state R58: `irq` is CTRL.IE & STATUS.DONE: 0 after reset; a completion raises it when IE = 1; clearing DONE (by a
STATUS write) or IE (by a CTRL write) lowers it. -/
def Obligations.IrqLevel : Prop :=
  State.reset.irq = false ∧
  (∀ s : State, s.irq = true ↔ s.ie = true ∧ s.done = true) ∧
  (∀ (i : Instr) (s t : State), exec i s = .next t → t.irq = s.ie) ∧
  (∀ (s t : State) (v : Word) (rest : List Event), s.inputs = .csrWrite (s.platform.base + 0x00C) 4 v :: rest →
    v.getLsbD 1 = true → step s = .next t → t.irq = false) ∧
  (∀ (s t : State) (v : Word) (rest : List Event), s.inputs = .csrWrite (s.platform.base + 0x004) 4 v :: rest →
    step s = .next t → t.irq = (v.getLsbD 0 && s.done) ∧ t.done = s.done)

/-! ## The step -/

/-- 10_state R56: the engine's move in BUSY is the latched command's meaning: when no event is left, and when the event says
so. An idle machine with nothing left to come stays as it is. The list of events and withFetchWord are the model's choice,
assumption logs 1 and 2. -/
def Obligations.StepRunsTheLatchedCommand : Prop :=
  (∀ (s : State) (r : Run) (i : Instr), s.seq = .busy r → decode r.word = .ok i → s.inputs = [] → step s = exec i s) ∧
  (∀ (s : State) (r : Run) (i : Instr) (rest : List Event), s.seq = .busy r → decode r.word = .ok i →
    s.inputs = .finish :: rest → step s = exec i { s with inputs := rest }) ∧
  (∀ s : State, s.seq = .idle → s.inputs = [] → step s = .next s) ∧
  (∀ (s : State) (i : Instr), ∃ t : State, step (s.withFetchWord 32 (encode i).toNat) = exec i t ∧
    t = s.accept (encode i))

/-- 60_exceptions R204: a word that decodes as ILLEGAL, accepted while idle, completes with ILLEGAL_CMD and changes nothing
but the completion fields of STATUS. -/
def Obligations.IllegalCommandCompletes : Prop :=
  ∀ (s : State) (w : Word) (e : DecodeError), s.seq = .idle → decode w = .error e → s.inputs = [] →
    step (s.accept w) = .next { s with err := .illegalCmd, done := true }

/-- 60_exceptions R200: no step and no command faults or is refused; every command's run ends in exactly one completion:
DONE = 1, BUSY = 0, and a code of 0 to 6. -/
def Obligations.EveryCommandEndsInOneCompletion : Prop :=
  (∀ s : State, ∃ t, step s = .next t) ∧
  (∀ (i : Instr) (s : State), ∃ t, exec i s = .next t ∧ t.done = true ∧ t.busy = false ∧ t.err.code.toNat ≤ 6)

/-! ## SCHEDULE -/

/-- 40_key_schedule R141, 60_exceptions R202: sKEYLEN <= 0 completes with INVALID_KEY; KEYED is 0, P and S and everything
else are unchanged. -/
def Obligations.ScheduleRefusesNonPositiveLength : Prop :=
  ∀ s : State, sKeylen s.operands.keylen ≤ 0 →
    exec .schedule s = .next { s with keyed := false, err := .invalidKey, done := true, seq := .idle }

/-- 40_key_schedule R130, R142, R144: every sKEYLEN >= 1 is scheduled: P and S become the key's tables, KEYED = 1, ERR = OK,
and nothing else changes. -/
def Obligations.ScheduleCompletes : Prop :=
  ∀ s : State, 0 < sKeylen s.operands.keylen →
    exec .schedule s = .next { s with
      cipher := scheduleTables s.operands.key (sKeylen s.operands.keylen).toNat
      keyed := true
      err := .ok
      done := true
      seq := .idle }

/-- 40_key_schedule R135 to R140: the tables a SCHEDULE leaves are those of the chain of 521 encryptions that starts from
(0, 0) over the ROM with the key words XORed into P: encryption `n` encrypts the previous pair over the tables as they stand,
then its result replaces P[2n], P[2n+1] for n < 9 and the flat S words 2(n-9), 2(n-9)+1 after that; every word keeps the value
written there. -/
def Obligations.ScheduleIsTheChainOf521Encryptions : Prop :=
  ∀ (s t : State), 0 < sKeylen s.operands.keylen → exec .schedule s = .next t →
    ∃ (T : Nat → CipherState) (x : Nat → Word × Word),
      (∀ i, i < 18 → (T 0).pAt i = romCipher.pAt i ^^^ keyWord s.operands.key (sKeylen s.operands.keylen).toNat i) ∧
      (∀ b y, (T 0).sAt b y = romCipher.sAt b y) ∧
      x 0 = (0x00000000#32, 0x00000000#32) ∧
      (∀ n, n < 521 → x (n + 1) = encryptBlock (T n) (x n)) ∧
      (∀ n i, n < 9 → i < 18 → (T (n + 1)).pAt i =
        if i = 2 * n then (x (n + 1)).1 else if i = 2 * n + 1 then (x (n + 1)).2 else (T n).pAt i) ∧
      (∀ n b y, n < 9 → (T (n + 1)).sAt b y = (T n).sAt b y) ∧
      (∀ n i, n < 512 → i < 18 → (T (n + 10)).pAt i = (T (n + 9)).pAt i) ∧
      (∀ n (b : Fin 4) (y : Byte), n < 512 → (T (n + 10)).sAt b y =
        if 256 * b.val + y.toNat = 2 * n then (x (n + 10)).1
        else if 256 * b.val + y.toNat = 2 * n + 1 then (x (n + 10)).2 else (T (n + 9)).sAt b y) ∧
      t.cipher = T 521 ∧
      (∀ n, n < 9 → t.cipher.pAt (2 * n) = (x (n + 1)).1 ∧ t.cipher.pAt (2 * n + 1) = (x (n + 1)).2) ∧
      (∀ n (b : Fin 4) (y : Byte), n < 512 →
        (256 * b.val + y.toNat = 2 * n → t.cipher.sAt b y = (x (n + 10)).1) ∧
        (256 * b.val + y.toNat = 2 * n + 1 → t.cipher.sAt b y = (x (n + 10)).2))

/-- 40_key_schedule R133: the key words of the source's temporary buffer of L / gcd(L, 4) words are the cyclic key words, for
every L >= 1. -/
def Obligations.KeyWordsEqualTheSourcesBuffer : Prop :=
  ∀ (key : Vector Word 18) (len i : Nat), 1 ≤ len →
    keyWord key len (i % (len / Nat.gcd len 4)) = keyWord key len i

/-- 40_key_schedule R143: the Cipher State a successful SCHEDULE produces depends only on min(sKEYLEN, 72) and the key bytes
below it, whatever the state before. -/
def Obligations.CipherStateDependsOnlyOnTheKey : Prop :=
  ∀ (s s' t t' : State), 0 < sKeylen s.operands.keylen → 0 < sKeylen s'.operands.keylen →
    min (sKeylen s.operands.keylen) 72 = min (sKeylen s'.operands.keylen) 72 →
    (∀ n : Nat, (n : Int) < min (sKeylen s.operands.keylen) 72 → keyByte s.operands.key n = keyByte s'.operands.key n) →
    exec .schedule s = .next t → exec .schedule s' = .next t' → t.cipher = t'.cipher

/-- 10_state R54: only SCHEDULE (and reset, which leaves P and S unspecified) writes P and S: no command but SCHEDULE changes
them, and no step does unless it is the reset input or a SCHEDULE is running. -/
def Obligations.OnlyScheduleWritesTheCipherState : Prop :=
  (∀ (i : Instr) (s t : State), i ≠ .schedule → exec i s = .next t → t.cipher = s.cipher) ∧
  (∀ s t : State, (∀ r, s.seq = .busy r → RunFits r) → step s = .next t → t.cipher ≠ s.cipher →
    (∃ rest, s.inputs = .reset :: rest) ∨ ∃ r, s.seq = .busy r ∧ decode r.word = .ok .schedule)

/-! ## F and the block transform -/

/-- 41_feistel R151, R152: F splits x into bytes from the most significant and groups add, XOR, add, dropping the carries. -/
def Obligations.FeistelValue : Prop :=
  ∀ (t : CipherState) (x : Word) (a b c d : Byte),
    x.toNat = a.toNat * 2 ^ 24 + b.toNat * 2 ^ 16 + c.toNat * 2 ^ 8 + d.toNat →
    (feistel t x).toNat =
      (((((t.sAt 0 a).toNat + (t.sAt 1 b).toNat) % 2 ^ 32) ^^^ (t.sAt 2 c).toNat) + (t.sAt 3 d).toNat) % 2 ^ 32

/-- 42_block_transform R160, R161: the 16 rounds, the undone swap and the whitening, as recurrences on the two halves; for
DecryptBlock the P indices run from 17 down. -/
def Obligations.BlockTransformIsSixteenRounds : Prop :=
  ∀ (t : CipherState) (l r : Nat → Word),
    ((∀ i, i < 16 → l (i + 1) = r i ^^^ feistel t (l i ^^^ t.pAt i) ∧ r (i + 1) = l i ^^^ t.pAt i) →
      encryptBlock t (l 0, r 0) = (r 16 ^^^ t.pAt 17, l 16 ^^^ t.pAt 16)) ∧
    ((∀ i, i < 16 → l (i + 1) = r i ^^^ feistel t (l i ^^^ t.pAt (17 - i)) ∧ r (i + 1) = l i ^^^ t.pAt (17 - i)) →
      decryptBlock t (l 0, r 0) = (r 16 ^^^ t.pAt 0, l 16 ^^^ t.pAt 1))

/-- 42_block_transform R162: DecryptBlock undoes EncryptBlock and EncryptBlock undoes DecryptBlock, for every Cipher State and
every pair. -/
def Obligations.DecryptBlockInvertsEncryptBlock : Prop :=
  ∀ (t : CipherState) (lr : Word × Word),
    decryptBlock t (encryptBlock t lr) = lr ∧ encryptBlock t (decryptBlock t lr) = lr

/-- 42_block_transform R165: ENC_BLOCK. -/
def Obligations.EncBlockCommand : Prop :=
  ∀ s : State,
    (s.keyed = true → exec .encBlock s = .next { s with
      blkL := (encryptBlock s.cipher (s.operands.blkL, s.operands.blkR)).1
      blkR := (encryptBlock s.cipher (s.operands.blkL, s.operands.blkR)).2
      err := .ok
      done := true
      seq := .idle }) ∧
    (s.keyed = false → exec .encBlock s = .next { s with err := .notKeyed, done := true, seq := .idle })

/-- 42_block_transform R166: DEC_BLOCK. -/
def Obligations.DecBlockCommand : Prop :=
  ∀ s : State,
    (s.keyed = true → exec .decBlock s = .next { s with
      blkL := (decryptBlock s.cipher (s.operands.blkL, s.operands.blkR)).1
      blkR := (decryptBlock s.cipher (s.operands.blkL, s.operands.blkR)).2
      err := .ok
      done := true
      seq := .idle }) ∧
    (s.keyed = false → exec .decBlock s = .next { s with err := .notKeyed, done := true, seq := .idle })

/-- 42_block_transform R166 (corner cases): ENC_BLOCK followed by DEC_BLOCK, each accepted by a CMD write, restores BLK_L and
BLK_R. -/
def Obligations.DecBlockRestoresTheBlock : Prop :=
  ∀ s : State, s.keyed = true → s.seq = .idle →
    ∃ t u : State, exec .encBlock (s.accept 0x00000002#32) = .next t ∧ exec .decBlock (t.accept 0x00000003#32) = .next u ∧
      u.blkL = s.blkL ∧ u.blkR = s.blkR ∧ u.keyed = true ∧ u.cipher = s.cipher

/-! ## Buffer commands -/

/-- 60_exceptions R203: the four transform commands with KEYED = 0 complete with NOT_KEYED and change nothing else. -/
def Obligations.TransformsNeedAKey : Prop :=
  ∀ (i : Instr) (s : State), i ≠ .schedule → s.keyed = false →
    exec i s = .next { s with err := .notKeyed, done := true, seq := .idle }

/-- 60_exceptions R205, R210: with KEYED = 1, a nonempty buffer whose source or destination runs past 0xFFFFFFFF completes with
RANGE, whether or not it overlaps, and nothing else changes. -/
def Obligations.BufferRangeRefused : Prop :=
  ∀ (i : Instr) (s : State), i = .encBuf ∨ i = .decBuf → s.keyed = true → 0 < s.operands.len.toNat →
    s.operands.src.toNat + s.operands.len.toNat > 2 ^ 32 ∨ s.operands.dst.toNat + s.operands.len.toNat > 2 ^ 32 →
    exec i s = .next { s with err := .range, done := true, seq := .idle }

/-- 43_buffer_transform R187, 60_exceptions R206: with KEYED = 1 and both ranges inside the address space, different source and
destination ranges that share a byte complete with OVERLAP, and nothing else changes. -/
def Obligations.BufferOverlapRefused : Prop :=
  ∀ (i : Instr) (s : State) (a : Nat), i = .encBuf ∨ i = .decBuf → s.keyed = true →
    s.operands.src.toNat + s.operands.len.toNat ≤ 2 ^ 32 → s.operands.dst.toNat + s.operands.len.toNat ≤ 2 ^ 32 →
    s.operands.src ≠ s.operands.dst →
    (s.operands.src.toNat ≤ a ∧ a < s.operands.src.toNat + s.operands.len.toNat) →
    (s.operands.dst.toNat ≤ a ∧ a < s.operands.dst.toNat + s.operands.len.toNat) →
    exec i s = .next { s with err := .overlap, done := true, seq := .idle }

/-- 43_buffer_transform R185: LEN = 0 completes with OK after the KEYED check, with any SRC and DST, and makes no access. -/
def Obligations.EmptyBufferCompletes : Prop :=
  ∀ (i : Instr) (s : State), i = .encBuf ∨ i = .decBuf → s.keyed = true → s.operands.len = 0#32 →
    exec i s = .next { s with err := .ok, done := true, seq := .idle }

/-- 43_buffer_transform R180 to R184, R189, R193: a buffer command that passes its checks, meets no bus error and is not raced
completes with OK; each destination byte is R189's, every byte outside [DST, DST+LEN) is unchanged, and nothing but memory and
the completion fields changes. (A buffer that is not empty leaves its completion to be observed, 70_reset_and_hazards R252: the
model's own record, assumption log 19.) -/
def Obligations.BufferResult : Prop :=
  ∀ (i : Instr) (s : State) (T : Word × Word → Word × Word),
    (i = .encBuf ∧ T = encryptBlock s.cipher) ∨ (i = .decBuf ∧ T = decryptBlock s.cipher) →
    Memory.wf s.mem → ChecksPass s.keyed s.operands → BusClear s.platform s.operands → s.raced = [] →
    ∃ m : Memory, exec i s = .next { s with
        mem := m
        err := .ok
        done := true
        seq := .idle
        unobserved := if s.operands.len = 0#32 then s.unobserved else { ops := s.operands, before := s.mem } :: s.unobserved } ∧
      Memory.wf m ∧
      (∀ off, off < s.operands.len.toNat →
        m.read (s.operands.dst.toNat + off) = resultByte T s.mem s.operands.src.toNat s.operands.blocks off) ∧
      (∀ a, s.operands.inDest a = false → m.read a = s.mem.read a)

/-- 20_memory R93: with racing host writes, the bytes of the blocks they did not affect are still R189's, and no byte outside
the destination changes. The bytes of affected blocks are free values, and the completion is left to be observed (assumption logs
9, 11 and 19). -/
def Obligations.RacedBufferResult : Prop :=
  ∀ (i : Instr) (s : State) (T : Word × Word → Word × Word),
    (i = .encBuf ∧ T = encryptBlock s.cipher) ∨ (i = .decBuf ∧ T = decryptBlock s.cipher) →
    Memory.wf s.mem → ChecksPass s.keyed s.operands → BusClear s.platform s.operands →
    ∃ (m : Memory) (n : Nat), exec i s = .next { s with
        mem := m, draws := n, err := .ok, done := true, seq := .idle, unobserved := s.owed s.operands } ∧
      (∀ off, off < s.operands.len.toNat → racedOffset s.operands s.raced off = false →
        m.read (s.operands.dst.toNat + off) = resultByte T s.mem s.operands.src.toNat s.operands.blocks off) ∧
      (∀ a, s.operands.inDest a = false → m.read a = s.mem.read a)

/-- 43_buffer_transform R191, 60_exceptions R207: an error response on any access ends the command with BUS_ERROR; no byte
outside [DST, DST+LEN) is written, and nothing but memory and the completion fields changes (the counter of free values counts
the bytes drawn, and the completion is left to be observed: the model's own records, assumption logs 9 and 19). -/
def Obligations.BusErrorCompletes : Prop :=
  ∀ (i : Instr) (s : State), i = .encBuf ∨ i = .decBuf → Memory.wf s.mem → ChecksPass s.keyed s.operands →
    ¬ BusClear s.platform s.operands →
    ∃ (m : Memory) (n : Nat),
      exec i s = .next { s with
        mem := m, draws := n, err := .busError, done := true, seq := .idle, unobserved := s.owed s.operands } ∧
      (∀ a, s.operands.inDest a = false → m.read a = s.mem.read a)

/-- 43_buffer_transform R181 (corner cases): DEC_BUF over the result of ENC_BUF, with the same Cipher State and LEN, restores
the plaintext, trailing bytes included; the second command may run in place or to another buffer. -/
def Obligations.DecBufRestoresThePlaintext : Prop :=
  ∀ s t u v : State, Memory.wf s.mem → s.raced = [] → u.raced = [] →
    ChecksPass s.keyed s.operands → ChecksPass u.keyed u.operands →
    BusClear s.platform s.operands → BusClear u.platform u.operands →
    exec .encBuf s = .next t → u.mem = t.mem → u.cipher = s.cipher →
    u.operands.src = s.operands.dst → u.operands.len = s.operands.len →
    exec .decBuf u = .next v →
    ∀ off, off < s.operands.len.toNat →
      v.mem.read (u.operands.dst.toNat + off) = s.mem.read (s.operands.src.toNat + off)

/-- 43_buffer_transform R190: the result for a block depends only on its 8 source bytes and the Cipher State: two runs of the
same command (or one run) with an equal source block give an equal result block, wherever it lies. -/
def Obligations.BlocksAreIndependent : Prop :=
  ∀ (i : Instr) (s s' t t' : State) (j j' : Nat), i = .encBuf ∨ i = .decBuf →
    Memory.wf s.mem → Memory.wf s'.mem → s.raced = [] → s'.raced = [] → s.cipher = s'.cipher →
    exec i s = .next t → exec i s' = .next t' → t.err = .ok → t'.err = .ok →
    j < s.operands.blocks → j' < s'.operands.blocks →
    (∀ k, k < 8 → s.mem.read (s.operands.src.toNat + 8 * j + k) = s'.mem.read (s'.operands.src.toNat + 8 * j' + k)) →
    ∀ k, k < 8 → t.mem.read (s.operands.dst.toNat + 8 * j + k) = t'.mem.read (s'.operands.dst.toNat + 8 * j' + k)

/-- 20_memory R83: ENC_BLOCK on the halves of 8 bytes gives the words ENC_BUF writes for those 8 bytes, and DEC_BLOCK those of
DEC_BUF. -/
def Obligations.BlockAndBufferCommandsAgree : Prop :=
  ∀ (ib iB : Instr) (s s' t t' : State), (ib = .encBlock ∧ iB = .encBuf) ∨ (ib = .decBlock ∧ iB = .decBuf) →
    s.cipher = s'.cipher → s.keyed = true → Memory.wf s'.mem → s'.raced = [] → s'.operands.len = 8#32 →
    (s.operands.blkL, s.operands.blkR) = sourceBlock s'.mem s'.operands.src.toNat 0 →
    exec ib s = .next t → exec iB s' = .next t' → t'.err = .ok →
    t.blkL = be32 (t'.mem.read s'.operands.dst.toNat) (t'.mem.read (s'.operands.dst.toNat + 1))
      (t'.mem.read (s'.operands.dst.toNat + 2)) (t'.mem.read (s'.operands.dst.toNat + 3)) ∧
    t.blkR = be32 (t'.mem.read (s'.operands.dst.toNat + 4)) (t'.mem.read (s'.operands.dst.toNat + 5))
      (t'.mem.read (s'.operands.dst.toNat + 6)) (t'.mem.read (s'.operands.dst.toNat + 7))

/-! ## The host's memory accesses and reset -/

/-- 20_memory R92, R93, R97, 70_reset_and_hazards R252: on a platform that keeps its caches coherent, and where no cache holds a
copy, a host load returns the byte in memory, or, when it races with a running command, a byte that command has written to this
destination address, or, when it races with a command whose completion no STATUS read has observed, an old byte of this
destination address; and each of these can be returned. Else it returns the copy. Nothing else changes. When the new byte can be
seen, which bytes are old, and what caches do, is the model's choice (assumption logs 12, 16 and 19). -/
def Obligations.HostLoadReturnsOldOrNew : Prop :=
  (∀ (s : State) (a : Word) (pick : Nat) (rest : List Event), s.inputs = .memRead a pick :: rest →
    ∃ b : Byte, step s = .next { s with inputs := rest, response := .byte b } ∧
      (s.platform.coherent = true ∨ s.cache.find a.toNat = none →
        b = s.mem.read a.toNat ∨
          (∃ r, s.seq = .busy r ∧ r.ops.inDest a.toNat = true ∧ (a.toNat, b) ∈ r.out) ∨
          ∃ d ∈ s.unobserved, d.ops.inDest a.toNat = true ∧ b = d.before.read a.toNat) ∧
      (∀ c, s.platform.coherent = false → s.cache.find a.toNat = some c → b = c)) ∧
  (∀ (s : State) (a : Word) (b : Byte), s.platform.coherent = true ∨ s.cache.find a.toNat = none →
    (b = s.mem.read a.toNat ∨
      (∃ r, s.seq = .busy r ∧ r.ops.inDest a.toNat = true ∧ r.out.lookup a.toNat = some b) ∨
      ∃ d ∈ s.unobserved, d.ops.inDest a.toNat = true ∧ b = d.before.read a.toNat) →
    ∃ pick : Nat, ∀ rest : List Event,
      step { s with inputs := .memRead a pick :: rest } = .next { s with inputs := rest, response := .byte b })

/-- 20_memory R91, R93, R97, 70_reset_and_hazards R252: a host store writes its byte and no other: into memory on a platform that
keeps its caches coherent, else into the host's copy, with memory unchanged. It changes nothing else, but for its races: a store
into the source or destination of a running buffer command is remembered, and the destination bytes of blocks it affects of a
command whose completion is not observed are left unspecified, which a running command's record takes in. The treatment of races
is the model's choice (assumption logs 11, 16 and 19). -/
def Obligations.HostStoreWritesOneByte : Prop :=
  ∀ (s : State) (a : Word) (b : Byte) (rest : List Event), Memory.wf s.mem → s.inputs = .memWrite a b :: rest →
    ∃ (m : Memory) (c : Cache) (q : Sequencer) (u : List Completed) (n : Nat),
      step s = .next { s with
        mem := m, cache := c, seq := q, unobserved := u, draws := n, inputs := rest, response := .written } ∧
      Memory.wf m ∧
      (s.platform.coherent = true → c = s.cache ∧
        (∀ x, ¬ Spoils s.unobserved a.toNat x → m.read x = if x = a.toNat then b else s.mem.read x) ∧
        u = s.unobserved.map (fun d => { d with before := d.before.write a.toNat b })) ∧
      (s.platform.coherent = false →
        (∀ x, ¬ Spoils s.unobserved a.toNat x → m.read x = s.mem.read x) ∧
        c.find a.toNat = some b ∧ (∀ x, x ≠ a.toNat → c.find x = s.cache.find x) ∧ u = s.unobserved) ∧
      (s.unobserved = [] → n = s.draws) ∧
      (s.seq = .idle → q = .idle) ∧
      (∀ r, s.seq = .busy r → ∃ l, q = .busy { r with raced := l ++ r.raced } ∧
        (s.unobserved = [] → l = if (decode r.word = .ok .encBuf ∨ decode r.word = .ok .decBuf) ∧
            (r.ops.inSource a.toNat = true ∨ r.ops.inDest a.toNat = true) then [a.toNat] else []) ∧
        (decode r.word = .ok .encBuf ∨ decode r.word = .ok .decBuf →
          ∀ x, x = a.toNat ∨ m.read x ≠ s.mem.read x → r.ops.inSource x = true ∨ r.ops.inDest x = true → x ∈ l))

/-- 20_memory R97: what host caches do. On a platform that keeps them coherent, nothing is seen of it. Else a fill takes a byte as a
host load does where there is no copy, a clean stores the copy in memory as a host store does on a coherent platform, and an
invalidation drops it; each concerns its own byte and changes nothing else, but for the races of a clean. The caches' moves and
the treatment of races are the model's choice (assumption logs 11, 16 and 19). -/
def Obligations.HostCacheMoves : Prop :=
  (∀ (s : State) (a : Word) (pick : Nat) (e : Event) (rest : List Event), s.platform.coherent = true →
    e = .cacheFill a pick ∨ e = .cacheClean a ∨ e = .cacheInvalidate a → s.inputs = e :: rest →
    step s = .next { s with inputs := rest }) ∧
  (∀ (s : State) (a : Word) (pick : Nat) (rest : List Event), s.platform.coherent = false →
    s.inputs = .cacheFill a pick :: rest →
    ∃ c, step s = .next { s with cache := c, inputs := rest } ∧ (∀ x, x ≠ a.toNat → c.find x = s.cache.find x) ∧
      (∀ b, s.cache.find a.toNat = some b → c.find a.toNat = some b) ∧
      (s.cache.find a.toNat = none → ∃ b, c.find a.toNat = some b ∧
        step { s with inputs := .memRead a pick :: rest } = .next { s with inputs := rest, response := .byte b })) ∧
  (∀ (s : State) (a : Word) (rest : List Event), s.platform.coherent = false → s.inputs = .cacheClean a :: rest →
    (s.cache.find a.toNat = none → step s = .next { s with inputs := rest }) ∧
    (∀ b t, s.cache.find a.toNat = some b →
      step { s with
        platform := { s.platform with coherent := true }, inputs := .memWrite a b :: rest } = .next t →
      step s = .next { t with platform := s.platform, response := s.response })) ∧
  (∀ (s : State) (a : Word) (rest : List Event), s.platform.coherent = false → s.inputs = .cacheInvalidate a :: rest →
    ∃ c, step s = .next { s with cache := c, inputs := rest } ∧
      c.find a.toNat = none ∧ ∀ x, x ≠ a.toNat → c.find x = s.cache.find x)

/-- 20_memory R97: BF-CORE has no cache. What a command and a micro-step do is the same whatever the model's host caches hold and
whether or not the platform is coherent, and neither changes them. That the engine works on memory alone, and that on a coherent
platform memory holds what the host caches do, is the model's choice (assumption log 16). -/
def Obligations.EngineSeesNoHostCache : Prop :=
  ∀ (s : State) (c : Cache) (k : Bool),
    (∀ (i : Instr) (t : State), exec i s = .next t →
      t.cache = s.cache ∧ t.platform = s.platform ∧
      exec i { s with cache := c, platform := { s.platform with coherent := k } } =
        .next { t with cache := c, platform := { s.platform with coherent := k } }) ∧
    (∀ pick : Nat, (s.tick pick).cache = s.cache ∧ (s.tick pick).platform = s.platform ∧
      State.tick { s with cache := c, platform := { s.platform with coherent := k } } pick =
        { s.tick pick with cache := c, platform := { s.platform with coherent := k } })

/-- 20_memory R92, R97, 43_buffer_transform R189: on every platform, coherent or not, a host that has observed the commands before,
cleans the source range before the CMD write, observes the completion by a STATUS read and then invalidates the destination range
loads R189's bytes of the bytes it saw in the source, whatever a racing load might have returned. One clean and one invalidation
a byte, and what is left to observe, are the model's choice (assumption logs 16 and 19). -/
def Obligations.MaintenanceMakesBuffersCoherent : Prop :=
  ∀ (s : State) (i : Instr) (T : Word × Word → Word × Word) (m : Memory) (rest : List Event),
    (i = .encBuf ∧ T = encryptBlock s.cipher) ∨ (i = .decBuf ∧ T = decryptBlock s.cipher) →
    s.seq = .idle → s.unobserved = [] → Memory.wf s.mem → ChecksPass s.keyed s.latch → BusClear s.platform s.latch →
    0 < s.len.toNat →
    s.inputs = cleanRange s.src s.len.toNat ++ cmd s.platform.base i ++ [.finish] ++ rd s.platform.base .status ++
      invalidateRange s.dst s.len.toNat ++ rest →
    (∀ off, off < s.len.toNat → m.read (s.src.toNat + off) = s.hostByte (s.src.toNat + off)) →
    ∃ t : State, stepAll (s.len.toNat + 1 + 1 + 1 + s.len.toNat) s = t ∧ t.inputs = rest ∧ t.busy = false ∧ t.err = .ok ∧
      t.unobserved = [] ∧
      ∀ (off : Nat) (a : Word) (pick : Nat), off < s.len.toNat → a.toNat = s.dst.toNat + off →
        (t.hostLoad a pick).response = .byte (resultByte T m s.src.toNat s.latch.blocks off)

/-- 10_state R61: the values after reset. P and S are unspecified there, and nothing is said of them. -/
def Obligations.ResetValues : Prop :=
  (∀ r : Reg, State.reset.readReg r = if r = .id then 0x424C4631#32 else 0#32) ∧
  State.reset.ie = false ∧ State.reset.done = false ∧ State.reset.keyed = false ∧ State.reset.ovr = false ∧
  State.reset.err = .ok ∧ State.reset.busy = false ∧ State.reset.seq = .idle ∧ State.reset.irq = false

/-- 70_reset_and_hazards R240, R242, R243: the reset input, in every state: every CSR as after reset, the sequencer IDLE, `irq` = 0,
a running command abandoned with no code; memory keeps its bytes, but for the destination of an abandoned buffer command; host
caches, the platform, what is left to observe and what the agents do next stay (assumption logs 1, 7, 8, 16 and 19, the model's choice). -/
def Obligations.ResetInput : Prop :=
  ∀ (s : State) (rest : List Event), Memory.wf s.mem → s.inputs = .reset :: rest →
    ∃ t : State, step s = .next t ∧
      (∀ r : Reg, t.readReg r = if r = .id then 0x424C4631#32 else 0#32) ∧
      t.keyed = false ∧ t.seq = .idle ∧ t.irq = false ∧ t.platform = s.platform ∧ t.cache = s.cache ∧
      t.unobserved = s.unobserved ∧
      t.inputs = rest ∧
      ((∀ r, s.seq = .busy r → decode r.word ≠ .ok .encBuf ∧ decode r.word ≠ .ok .decBuf) → t.mem = s.mem) ∧
      (∀ r a, s.seq = .busy r → r.ops.inDest a = false → t.mem.read a = s.mem.read a)

/-! ## The engine's micro-steps -/

/-- 40_key_schedule R137 to R139, 10_state R55: running SCHEDULE round by round gives what its meaning gives: a micro-step that
ends the command leaves the meaning's state, and any other leaves the outcome of running it to the end as it was. The grain of a
micro-step is the model's choice (assumption log 14). -/
def Obligations.ScheduleMicroStepsRefine : Prop :=
  ∀ (s : State) (r : Run) (pick : Nat), Inv s → s.seq = .busy r → decode r.word = .ok .schedule →
    if (s.tick pick).busy then exec .schedule (s.tick pick) = exec .schedule s
    else exec .schedule s = .next (s.tick pick)

/-- 42_block_transform R160, R161, R164: running a block command round by round gives what its meaning gives, from every
progress whose halves are the block transform's, and each micro-step keeps them so. The grain of a micro-step is the model's
choice (assumption log 14). -/
def Obligations.BlockMicroStepsRefine : Prop :=
  ∀ (s : State) (r : Run) (i : Instr) (pick : Nat), s.seq = .busy r → RunFits r → decode r.word = .ok i →
    i = .encBlock ∨ i = .decBlock → BlockProgress (cipherDir i) s.cipher s.keyed r.ops r.progress →
    if (s.tick pick).busy then
      exec i (s.tick pick) = exec i s ∧ (s.tick pick).cipher = s.cipher ∧ (s.tick pick).keyed = s.keyed ∧
        ∃ r', (s.tick pick).seq = .busy r' ∧ r'.word = r.word ∧ r'.ops = r.ops ∧ RunFits r' ∧
          BlockProgress (cipherDir i) s.cipher s.keyed r.ops r'.progress
    else exec i s = .next (s.tick pick)

/-- 43_buffer_transform R182, R188, R191: running a buffer command byte access by byte access, in any order R188 allows, gives
what its meaning gives, bus errors and races included. The grain, the held-back writes and the treatment of races are the
model's choice (assumption logs 10, 11 and 14). -/
def Obligations.BufferMicroStepsRefine : Prop :=
  ∀ (s : State) (r : Run) (i : Instr) (pick : Nat), BufferInv s → s.seq = .busy r → decode r.word = .ok i →
    i = .encBuf ∨ i = .decBuf →
    if (s.tick pick).busy then exec i (s.tick pick) = exec i s else exec i s = .next (s.tick pick)

/-- 43_buffer_transform R182, R184, R188: what a running buffer command holds (the bytes it has written, each once, and its
working values) is right in every state that follows one in which it is right. The held-back writes and the micro-steps are the
model's choice (assumption logs 10, 11 and 14). -/
def Obligations.StepKeepsBufferProgress : Prop :=
  ∀ s t : State, BufferInv s → step s = .next t → BufferInv t

/-- 70_reset_and_hazards R260: every accepted command completes after finitely many micro-steps of the engine, however the open
choices fall; `ticksLeft` bounds their number. What counts as a micro-step is the model's choice (assumption logs 3 and 14). -/
def Obligations.MicroStepsReachCompletion : Prop :=
  ∀ (s : State) (picks : List Nat), ticksLeft s ≤ picks.length → (tickAll picks s).busy = false

/-- 43_buffer_transform R188: the accesses of a buffer command that passes its checks and meets no bus error: for each block in
ascending order 8 reads in some order, then 8 writes in some order; then, out of place, each trailing byte read once and then
written once; nothing else. Where R188 leaves an order open, `picks` chooses it (assumption log 14). -/
def Obligations.MasterPortAccessOrder : Prop :=
  ∀ (s : State) (r : Run) (i : Instr) (picks : List Nat), s.seq = .busy r → r.progress = .checks →
    decode r.word = .ok i → i = .encBuf ∨ i = .decBuf → ChecksPass s.keyed r.ops → BusClear s.platform r.ops →
    ticksLeft s ≤ picks.length →
    ∃ (reads writes : Nat → List Access) (tail : List Access),
      accesses picks s = (List.range r.ops.blocks).flatMap (fun j => reads j ++ writes j) ++ tail ∧
      (∀ j, j < r.ops.blocks →
        (reads j).Perm (blockAccesses .read (r.ops.src.toNat + 8 * j)) ∧
        (writes j).Perm (blockAccesses .write (r.ops.dst.toNat + 8 * j))) ∧
      (r.ops.src = r.ops.dst → tail = []) ∧
      (r.ops.src ≠ r.ops.dst →
        tail.Perm ((List.range' (8 * r.ops.blocks) (r.ops.len.toNat % 8)).flatMap (fun off =>
          [⟨.read, r.ops.src.toNat + off⟩, ⟨.write, r.ops.dst.toNat + off⟩])) ∧
        ∀ off ∈ List.range' (8 * r.ops.blocks) (r.ops.len.toNat % 8),
          [⟨.read, r.ops.src.toNat + off⟩, ⟨.write, r.ops.dst.toNat + off⟩].Sublist tail)

/-! ## Rules of the whole machine -/

/-- The invariants hold right after reset. Empty memory, BF_BASE = 0 and a coherent platform there are the model's choice
(assumption logs 6, 8 and 16). -/
def Obligations.ResetMeetsTheInvariant : Prop := Inv State.reset ∧ BufferInv State.reset ∧ OutInDest State.reset

/-- 10_state R36, R38, R40, R55, R56: every step keeps the invariant: memory canonical; DONE = 0 and ERR = OK while BUSY;
latched operands equal to the registers; the progress fits the command; KEYED = 1 only over the tables of a SCHEDULE; host caches
empty on a coherent platform, and the old memory kept for completions to observe canonical (assumption logs 16 and 19). -/
def Obligations.StepKeepsTheInvariant : Prop := ∀ s t : State, Inv s → step s = .next t → Inv t

/-- 10_state R36: BUSY rises only by a CMD write while idle, and falls only by completion (with DONE = 1) or reset; while BUSY
the latched word and operands stay. -/
def Obligations.BusyChanges : Prop :=
  ∀ s t : State, step s = .next t →
    (s.busy = false → t.busy = true → ∃ v rest, s.inputs = .csrWrite (s.platform.base + 0x008) 4 v :: rest) ∧
    (s.busy = true → t.busy = false → t.done = true ∨ ∃ rest, s.inputs = .reset :: rest) ∧
    (∀ r r', s.seq = .busy r → t.seq = .busy r' → r'.word = r.word ∧ r'.ops = r.ops)

/-- 10_state R37: DONE is set by completion and by nothing else, and cleared only by the acceptance of a command, a STATUS write
with bit 1 set, or reset. -/
def Obligations.DoneChanges : Prop :=
  ∀ s t : State, step s = .next t →
    (s.done = false → t.done = true → s.busy = true ∧ t.busy = false) ∧
    (s.done = true → t.done = false →
      (s.busy = false ∧ t.busy = true) ∨
      (∃ v rest, s.inputs = .csrWrite (s.platform.base + 0x00C) 4 v :: rest ∧ v.getLsbD 1 = true) ∨
      ∃ rest, s.inputs = .reset :: rest) ∧
    (s.busy = true → t.busy = false → (∀ rest, s.inputs ≠ .reset :: rest) → t.done = true)

/-- 10_state R38: KEYED rises only when a running SCHEDULE completes with OK, over the tables of a SCHEDULE, and falls only by
reset or by the acceptance of SCHEDULE. -/
def Obligations.KeyedChanges : Prop :=
  ∀ s t : State, Inv s → step s = .next t →
    (s.keyed = false → t.keyed = true →
      (∃ r, s.seq = .busy r ∧ decode r.word = .ok .schedule ∧
        t.cipher = scheduleTables r.ops.key (sKeylen r.ops.keylen).toNat) ∧
        t.busy = false ∧ t.err = .ok) ∧
    (s.keyed = true → t.keyed = false →
      (∃ rest, s.inputs = .reset :: rest) ∨
      (∃ rest, s.inputs = .csrWrite (s.platform.base + 0x008) 4 0x00000001#32 :: rest ∧ s.busy = false ∧ t.busy = true))

/-- 10_state R39: OVR is set only by a host write that BUSY makes ignored, and cleared only by a STATUS write with bit 3 set, or
reset. -/
def Obligations.OvrChanges : Prop :=
  ∀ s t : State, step s = .next t →
    (s.ovr = false → t.ovr = true →
      s.busy = true ∧ ∃ offset v rest, s.inputs = .csrWrite (s.platform.base + offset) 4 v :: rest ∧
        (offset ∈ [0x008, 0x010, 0x014, 0x018, 0x01C, 0x020, 0x024] ∨ ∃ j : Fin 18, offset = 0x040 + 4 * j.val)) ∧
    (s.ovr = true → t.ovr = false →
      (∃ v rest, s.inputs = .csrWrite (s.platform.base + 0x00C) 4 v :: rest ∧ v.getLsbD 3 = true) ∨
      ∃ rest, s.inputs = .reset :: rest)

/-- 43_buffer_transform R189, R191, 20_memory R80: a byte of memory changes only by a host store to it (on a platform that
is not coherent, by the cleaning of the host's copy of it, assumption log 16), or when it lies in the destination of a running
buffer command, or in a block that a store or a clean elsewhere races with before its command's completion is observed
(70_reset_and_hazards R252, assumption log 19); and the bytes a running command holds as written, and the trailing bytes it still
copies, stay in its destination. -/
def Obligations.MemoryChangesOnlyInTheDestination : Prop :=
  ∀ s t : State, Memory.wf s.mem → (∀ r, s.seq = .busy r → RunFits r) → OutInDest s → step s = .next t →
    OutInDest t ∧
    ∀ a, t.mem.read a ≠ s.mem.read a →
      (s.platform.coherent = true ∧
        ∃ (x : Word) (b : Byte) (rest : List Event), s.inputs = .memWrite x b :: rest ∧ x.toNat = a) ∨
      (s.platform.coherent = false ∧
        ∃ (x : Word) (b : Byte) (rest : List Event), s.inputs = .cacheClean x :: rest ∧ x.toNat = a ∧
          s.cache.find a = some b) ∨
      (∃ (x : Word) (rest : List Event), (s.inputs = .cacheClean x :: rest ∨ ∃ b, s.inputs = .memWrite x b :: rest) ∧
        Spoils s.unobserved x.toNat a) ∨
      ∃ r, s.seq = .busy r ∧ (decode r.word = .ok .encBuf ∨ decode r.word = .ok .decBuf) ∧ r.ops.inDest a = true
end

