-- ==== Sys2Proof/Laws/Memory.lean ====
section
/-! SUPPORT. Laws of memory: a read after a write, the canonical form kept by every memory operation, and equal reads give
equal memories. -/

namespace Sys2Proof.Machine

theorem Memory.read_cons (c : Host.Cell) (m : Memory) (a : Nat) :
    Memory.read (c :: m) a = if c.1 = a then c.2 else Memory.read m a := rfl

theorem Memory.read_of_forall_lt {m : Memory} {a : Nat} (h : ∀ c ∈ m, a < c.1) : Memory.read m a = unlistedByte := by
  induction m with
  | nil => rfl
  | cons c rest ih =>
    have hc := h c (List.mem_cons_self)
    rw [Memory.read_cons, if_neg (by omega)]
    exact ih fun d hd => h d (List.mem_cons_of_mem _ hd)

theorem Memory.mem_write {m : Memory} {a : Nat} {b : Byte} {c : Host.Cell} (h : c ∈ Memory.write m a b) :
    c ∈ m ∨ (c = (a, b) ∧ b ≠ unlistedByte) := by
  induction m with
  | nil =>
    unfold Memory.write at h
    split at h <;> simp_all
  | cons d rest ih =>
    unfold Memory.write at h
    split at h
    · split at h
      · exact .inl h
      · rcases List.mem_cons.mp h with h | h
        · exact .inr ⟨h, ‹_›⟩
        · exact .inl h
    · split at h
      · split at h
        · exact .inl (List.mem_cons_of_mem _ h)
        · rcases List.mem_cons.mp h with h | h
          · exact .inr ⟨h, ‹_›⟩
          · exact .inl (List.mem_cons_of_mem _ h)
      · rcases List.mem_cons.mp h with h | h
        · exact .inl (h ▸ List.mem_cons_self)
        · exact (ih h).imp_left (List.mem_cons_of_mem _)

theorem Memory.write_wf {m : Memory} (h : Memory.wf m) (a : Nat) (b : Byte) : Memory.wf (Memory.write m a b) := by
  induction m with
  | nil =>
    unfold Memory.write
    split <;> simp_all [Memory.wf]
  | cons d rest ih =>
    have hs := List.pairwise_cons.mp h.1
    have hr : Memory.wf rest := ⟨hs.2, fun c hc => h.2 c (List.mem_cons_of_mem _ hc)⟩
    have hd := h.2 d List.mem_cons_self
    unfold Memory.write
    split
    · rename_i hlt
      split
      · exact h
      · rename_i hb
        refine ⟨List.pairwise_cons.mpr ⟨?_, h.1⟩, ?_⟩
        · intro c hc
          rcases List.mem_cons.mp hc with rfl | hc
          · exact hlt
          · have := hs.1 c hc
            show a < c.1
            omega
        · intro c hc
          rcases List.mem_cons.mp hc with rfl | hc
          · exact hb
          · exact h.2 c hc
    · split
      · rename_i heq
        split
        · exact hr
        · rename_i hb
          refine ⟨List.pairwise_cons.mpr ⟨fun c hc => ?_, hs.2⟩, ?_⟩
          · have := hs.1 c hc
            show a < c.1
            omega
          · intro c hc
            rcases List.mem_cons.mp hc with rfl | hc
            · exact hb
            · exact hr.2 c hc
      · have ih := ih hr
        refine ⟨List.pairwise_cons.mpr ⟨fun c hc => ?_, ih.1⟩, ?_⟩
        · rcases Memory.mem_write hc with hc | ⟨rfl, -⟩
          · exact hs.1 c hc
          · show d.1 < a
            omega
        · intro c hc
          rcases List.mem_cons.mp hc with rfl | hc
          · exact hd
          · exact ih.2 c hc

theorem Memory.read_write {m : Memory} (h : Memory.wf m) (a : Nat) (b : Byte) (x : Nat) :
    Memory.read (Memory.write m a b) x = if x = a then b else Memory.read m x := by
  induction m with
  | nil =>
    unfold Memory.write
    by_cases hx : x = a
    · split <;> simp_all [Memory.read]
    · have hx' : ¬a = x := fun h' => hx h'.symm
      split <;> simp [Memory.read, hx']
  | cons d rest ih =>
    have hs := List.pairwise_cons.mp h.1
    have hr : Memory.wf rest := ⟨hs.2, fun c hc => h.2 c (List.mem_cons_of_mem _ hc)⟩
    have hlow : ∀ y, y ≤ d.1 → Memory.read rest y = unlistedByte := fun y hy =>
      Memory.read_of_forall_lt fun c hc => Nat.lt_of_le_of_lt hy (hs.1 c hc)
    unfold Memory.write
    split
    · rename_i hlt
      split
      · rename_i hb
        by_cases hx : x = a
        · subst hx
          rw [if_pos rfl, Memory.read_cons, if_neg (by omega), hlow x (by omega), hb]
        · rw [if_neg hx]
      · by_cases hx : x = a
        · subst hx
          simp [Memory.read]
        · rw [Memory.read_cons, if_neg (fun h' => hx h'.symm), if_neg hx]
    · split
      · rename_i heq
        by_cases hx : x = a
        · subst hx
          split
          · rename_i hb
            rw [hlow x (by omega), if_pos rfl, hb]
          · simp [Memory.read]
        · have hne : d.1 ≠ x := fun h' => hx (h' ▸ heq.symm)
          split
          · rw [Memory.read_cons d, if_neg hne]
          · rw [Memory.read_cons, if_neg (fun h' => hx h'.symm), Memory.read_cons, if_neg hne]
      · rename_i hne
        by_cases hx : d.1 = x
        · rw [Memory.read_cons, if_pos hx, if_neg (by omega), Memory.read_cons, if_pos hx]
        · rw [Memory.read_cons, if_neg hx, ih hr, Memory.read_cons, if_neg hx]

/-- Two canonical memories with the same bytes are the same list. -/
theorem Memory.ext_of_read {m m' : Memory} (h : Memory.wf m) (h' : Memory.wf m')
    (hr : ∀ a, Memory.read m a = Memory.read m' a) : m = m' := by
  have tail {d : Host.Cell} {rest : Memory} (hw : Memory.wf (d :: rest)) :
      Memory.wf rest ∧ (∀ c ∈ rest, d.1 < c.1) ∧ d.2 ≠ unlistedByte :=
    ⟨⟨(List.pairwise_cons.mp hw.1).2, fun c hc => hw.2 c (List.mem_cons_of_mem _ hc)⟩,
      (List.pairwise_cons.mp hw.1).1, hw.2 d List.mem_cons_self⟩
  induction m generalizing m' with
  | nil =>
    cases m' with
    | nil => rfl
    | cons d rest =>
      have := hr d.1
      rw [Memory.read_cons, if_pos rfl] at this
      exact absurd this.symm (tail h').2.2
  | cons c rest ih =>
    cases m' with
    | nil =>
      have := hr c.1
      rw [Memory.read_cons, if_pos rfl] at this
      exact absurd this (tail h).2.2
    | cons d rest' =>
      obtain ⟨hw, hlt, hb⟩ := tail h
      obtain ⟨hw', hlt', hb'⟩ := tail h'
      have low {e : Host.Cell} {l : Memory} (hl : ∀ x ∈ l, e.1 < x.1) (y : Nat) (hy : y ≤ e.1) :
          Memory.read l y = unlistedByte :=
        Memory.read_of_forall_lt fun x hx => Nat.lt_of_le_of_lt hy (hl x hx)
      have hkey : c.1 = d.1 := by
        rcases Nat.lt_trichotomy c.1 d.1 with hl | he | hl
        · have := hr c.1
          rw [Memory.read_cons, if_pos rfl, Memory.read_cons, if_neg (by omega), low hlt' c.1 (by omega)] at this
          exact absurd this hb
        · exact he
        · have := hr d.1
          rw [Memory.read_cons, if_neg (by omega), low hlt d.1 (by omega), Memory.read_cons, if_pos rfl] at this
          exact absurd this.symm hb'
      have hval : c.2 = d.2 := by
        have := hr c.1
        rwa [Memory.read_cons, if_pos rfl, Memory.read_cons, if_pos hkey.symm] at this
      have hrest : rest = rest' := by
        refine ih hw hw' fun a => ?_
        by_cases ha : c.1 = a
        · rw [low hlt a (by omega), low hlt' a (by omega)]
        · have := hr a
          rwa [Memory.read_cons, if_neg ha, Memory.read_cons, if_neg (by omega)] at this
      rw [hrest, Prod.ext hkey hval]

/-- A property that the start has and every turn of the body keeps is a property of a loop's result. -/
theorem loop_induction {α : Type} {P : Nat → α → Prop} {body : Nat → α → α} {start : α} (n : Nat)
    (h0 : P 0 start) (hs : ∀ k x, k < n → P k x → P (k + 1) (body k x)) : P n (loop n body start) := by
  induction n with
  | zero => exact h0
  | succ n ih => exact hs n _ (Nat.lt_succ_self n) (ih fun k x hk => hs k x (Nat.lt_succ_of_lt hk))

@[simp] theorem loop_zero {α : Type} (body : Nat → α → α) (start : α) : loop 0 body start = start := rfl

theorem loop_succ {α : Type} (n : Nat) (body : Nat → α → α) (start : α) :
    loop (n + 1) body start = body n (loop n body start) := rfl

/-- Two loops whose bodies agree on every index in range give the same result. -/
theorem loop_congr {α : Type} {body body' : Nat → α → α} (n : Nat) (start : α)
    (h : ∀ k x, k < n → body k x = body' k x) : loop n body start = loop n body' start := by
  induction n with
  | zero => rfl
  | succ n ih =>
    rw [loop_succ, loop_succ, ih fun k x hk => h k x (Nat.lt_succ_of_lt hk), h n _ (Nat.lt_succ_self n)]

theorem drawRange_wf {m : Memory} (h : Memory.wf m) (dst len : Nat) (hit : Nat → Bool) (draws : Nat) :
    Memory.wf (drawRange dst len hit draws m) := by
  refine loop_induction (P := fun _ m => Memory.wf m) len h fun k x _ hx => ?_
  split
  · exact Memory.write_wf hx _ _
  · exact hx

/-- What drawing a range can do: a byte that is hit takes its free value, every other byte keeps its own. -/
theorem read_drawRange {m : Memory} (h : Memory.wf m) (dst len : Nat) (hit : Nat → Bool) (draws a : Nat) :
    Memory.read (drawRange dst len hit draws m) a =
      if dst ≤ a ∧ a < dst + len ∧ hit (a - dst) = true ∧ a < Config.addressSpace then Config.freeByte (draws + (a - dst))
      else Memory.read m a := by
  refine (loop_induction (P := fun n x => Memory.wf x ∧ Memory.read x a =
      if dst ≤ a ∧ a < dst + n ∧ hit (a - dst) = true ∧ a < Config.addressSpace then Config.freeByte (draws + (a - dst))
      else Memory.read m a) len ⟨h, ?_⟩ fun k x _ hx => ?_).2
  · rw [if_neg (by omega)]
  · by_cases ha : a = dst + k
    · subst ha
      have hk : dst + k - dst = k := by omega
      rw [hk] at hx ⊢
      by_cases hh : hit k = true ∧ dst + k < Config.addressSpace
      · rw [if_pos (by simp only [hh, Bool.true_and, decide_true]), if_pos ⟨by omega, by omega, hh⟩]
        exact ⟨Memory.write_wf hx.1 _ _, by rw [Memory.read_write hx.1, if_pos rfl]⟩
      · rw [if_neg (by simpa using hh), if_neg (fun h' => hh h'.2.2)]
        exact ⟨hx.1, by rw [hx.2, if_neg (by omega)]⟩
    · have hiff : (dst ≤ a ∧ a < dst + (k + 1) ∧ hit (a - dst) = true ∧ a < Config.addressSpace) ↔
          (dst ≤ a ∧ a < dst + k ∧ hit (a - dst) = true ∧ a < Config.addressSpace) := by
        constructor <;> rintro ⟨h1, h2, h3⟩ <;> exact ⟨h1, by omega, h3⟩
      simp only [hiff]
      split
      · exact ⟨Memory.write_wf hx.1 _ _, by rw [Memory.read_write hx.1, if_neg ha, hx.2]⟩
      · exact hx

end Sys2Proof.Machine
end

