-- ==== Sys2Proof/Laws/Buffer.lean ====
section
/-! SUPPORT. Laws of the operand bytes and of one turn of BufferOp: what a load or store of a word, a block operation and a
copied byte can do (20_memory R81, R82, 43_buffer_transform R182, R191). -/

namespace Sys2Proof.Machine

open Sys2Proof.Safety

theorem unbe32_toNat (w : Word) (k : Nat) : (unbe32 w k).toNat = w.toNat / 2 ^ (24 - 8 * k) % 2 ^ 8 := by
  simp [unbe32, BitVec.extractLsb'_toNat, Nat.shiftRight_eq_div_pow]

theorem masterRead_some {p : Platform} {m : Memory} {a : Nat} {b : Byte} :
    masterRead p m a = some b ↔ p.busErr ⟨.read, a⟩ = false ∧ m.read a = b := by
  unfold masterRead
  split <;> simp_all

theorem masterWrite_some {p : Platform} {m m' : Memory} {a : Nat} {b : Byte} :
    masterWrite p m a b = some m' ↔ p.busErr ⟨.write, a⟩ = false ∧ m.write a b = m' := by
  unfold masterWrite
  split <;> simp_all

theorem loadWord_some {p : Platform} {m : Memory} {a : Nat} {w : Word} :
    loadWord p m a = some w ↔ (∀ k, k < 4 → p.busErr ⟨.read, a + k⟩ = false) ∧
      be32 (m.read a) (m.read (a + 1)) (m.read (a + 2)) (m.read (a + 3)) = w := by
  have four (P : Nat → Prop) : (∀ k, k < 4 → P k) ↔ P 0 ∧ P 1 ∧ P 2 ∧ P 3 :=
    ⟨fun h => ⟨h 0 (by omega), h 1 (by omega), h 2 (by omega), h 3 (by omega)⟩, fun ⟨h0, h1, h2, h3⟩ k hk => by
      rcases (by omega : k = 0 ∨ k = 1 ∨ k = 2 ∨ k = 3) with rfl | rfl | rfl | rfl <;> assumption⟩
  simp only [loadWord, Option.bind_eq_bind, Option.bind_eq_some_iff, masterRead_some, Option.pure_def,
    Option.some.injEq, four (fun k => p.busErr ⟨.read, a + k⟩ = false), Nat.add_zero]
  constructor
  · rintro ⟨_, ⟨h0, rfl⟩, _, ⟨h1, rfl⟩, _, ⟨h2, rfl⟩, _, ⟨h3, rfl⟩, h⟩
    exact ⟨⟨h0, h1, h2, h3⟩, h⟩
  · rintro ⟨⟨h0, h1, h2, h3⟩, h⟩
    exact ⟨_, ⟨h0, rfl⟩, _, ⟨h1, rfl⟩, _, ⟨h2, rfl⟩, _, ⟨h3, rfl⟩, h⟩

/-- A word that was stored: the four accesses got no error, its four bytes lie from `a` on, and every other byte is as it was. -/
theorem storeWord_some {p : Platform} {m m' : Memory} {a : Nat} {w : Word} (hw : Memory.wf m)
    (h : storeWord p m a w = some m') :
    (∀ k, k < 4 → p.busErr ⟨.write, a + k⟩ = false) ∧ Memory.wf m' ∧
      ∀ x, m'.read x = if a ≤ x ∧ x < a + 4 then unbe32 w (x - a) else m.read x := by
  simp only [storeWord, Option.bind_eq_bind, Option.bind_eq_some_iff, masterWrite_some] at h
  obtain ⟨_, ⟨h0, rfl⟩, _, ⟨h1, rfl⟩, _, ⟨h2, rfl⟩, h3, rfl⟩ := h
  have w1 := Memory.write_wf hw a (unbe32 w 0)
  have w2 := Memory.write_wf w1 (a + 1) (unbe32 w 1)
  have w3 := Memory.write_wf w2 (a + 2) (unbe32 w 2)
  refine ⟨fun k hk => ?_, Memory.write_wf w3 _ _, fun x => ?_⟩
  · rcases (by omega : k = 0 ∨ k = 1 ∨ k = 2 ∨ k = 3) with rfl | rfl | rfl | rfl <;> assumption
  · simp only [Memory.read_write w3, Memory.read_write w2, Memory.read_write w1, Memory.read_write hw]
    by_cases hx : a ≤ x ∧ x < a + 4
    · rw [if_pos hx]
      obtain ⟨k, rfl⟩ : ∃ k, x = a + k := ⟨x - a, by omega⟩
      rw [Nat.add_sub_cancel_left]
      rcases (by omega : k = 0 ∨ k = 1 ∨ k = 2 ∨ k = 3) with rfl | rfl | rfl | rfl
      · repeat rw [if_neg (by omega)]
        rw [if_pos (by omega)]
      · repeat rw [if_neg (by omega)]
        rw [if_pos (by omega)]
      · rw [if_neg (by omega), if_pos (by omega)]
      · rw [if_pos (by omega)]
    · rw [if_neg hx]
      repeat rw [if_neg (by omega)]

theorem storeWord_isSome {p : Platform} {a : Nat} (h : ∀ k, k < 4 → p.busErr ⟨.write, a + k⟩ = false) (m : Memory)
    (w : Word) : ∃ m', storeWord p m a w = some m' := by
  simp only [storeWord, Option.bind_eq_bind, Option.bind_eq_some_iff, masterWrite_some]
  exact ⟨_, _, ⟨h 0 (by omega), rfl⟩, _, ⟨h 1 (by omega), rfl⟩, _, ⟨h 2 (by omega), rfl⟩, h 3 (by omega), rfl⟩

/-- One block of BufferOp that ran: its 16 accesses got no error, its 8 result bytes lie from `dst` on, and every other byte is
as it was. -/
theorem blockOp_some {T : Word × Word → Word × Word} {p : Platform} {m m' : Memory} {src j dst : Nat} (hw : Memory.wf m)
    (h : blockOp T p (src + 8 * j) dst m = some m') :
    (∀ k, k < 8 → p.busErr ⟨.read, src + 8 * j + k⟩ = false ∧ p.busErr ⟨.write, dst + k⟩ = false) ∧ Memory.wf m' ∧
      ∀ x, m'.read x =
        if dst ≤ x ∧ x < dst + 8 then blockByte (T (sourceBlock m src j)) (x - dst) else m.read x := by
  simp only [blockOp, Option.bind_eq_bind, Option.bind_eq_some_iff, loadWord_some] at h
  obtain ⟨_, ⟨hr0, rfl⟩, _, ⟨hr1, rfl⟩, m1, hs0, hs1⟩ := h
  obtain ⟨hw0, wf1, read1⟩ := storeWord_some hw hs0
  obtain ⟨hw1, wf2, read2⟩ := storeWord_some wf1 hs1
  refine ⟨fun k hk => ?_, wf2, fun x => ?_⟩
  · by_cases hk4 : k < 4
    · exact ⟨hr0 k hk4, hw0 k hk4⟩
    · have e1 : src + 8 * j + k = src + 8 * j + 4 + (k - 4) := by omega
      have e2 : dst + k = dst + 4 + (k - 4) := by omega
      rw [e1, e2]
      exact ⟨hr1 (k - 4) (by omega), hw1 (k - 4) (by omega)⟩
  · rw [read2, read1]
    by_cases hx : dst ≤ x ∧ x < dst + 8
    · rw [if_pos hx, blockByte]
      by_cases hx4 : x < dst + 4
      · rw [if_neg (by omega), if_pos (by omega), if_pos (by omega)]
        rfl
      · rw [if_pos (by omega), if_neg (by omega), show x - (dst + 4) = x - dst - 4 by omega]
        rfl
    · rw [if_neg (by omega), if_neg (by omega), if_neg hx]

theorem blockOp_isSome {p : Platform} {src dst : Nat}
    (h : ∀ k, k < 8 → p.busErr ⟨.read, src + k⟩ = false ∧ p.busErr ⟨.write, dst + k⟩ = false)
    (T : Word × Word → Word × Word) (m : Memory) : ∃ m', blockOp T p src dst m = some m' := by
  simp only [blockOp, Option.bind_eq_bind, Option.bind_eq_some_iff, loadWord_some]
  obtain ⟨m1, h1⟩ := storeWord_isSome (p := p) (a := dst) (fun k hk => (h k (by omega)).2) m (T (sourceBlock m src 0)).1
  obtain ⟨m2, h2⟩ := storeWord_isSome (p := p) (a := dst + 4)
    (fun k hk => by rw [Nat.add_assoc]; exact (h (4 + k) (by omega)).2) m1 (T (sourceBlock m src 0)).2
  exact ⟨m2, _, ⟨fun k hk => (h k (by omega)).1, rfl⟩, _,
    ⟨fun k hk => by rw [Nat.add_assoc]; exact (h (4 + k) (by omega)).1, rfl⟩, m1, h1, h2⟩

/-- One copied byte: both accesses got no error, the byte lies at `dst`, and every other byte is as it was. -/
theorem copyByte_some {p : Platform} {m m' : Memory} {src dst : Nat} :
    copyByte p src dst m = some m' ↔
      p.busErr ⟨.read, src⟩ = false ∧ p.busErr ⟨.write, dst⟩ = false ∧ m' = m.write dst (m.read src) := by
  simp only [copyByte, Option.bind_eq_bind, Option.bind_eq_some_iff, masterRead_some, masterWrite_some]
  constructor
  · rintro ⟨_, ⟨h0, rfl⟩, h1, rfl⟩
    exact ⟨h0, h1, rfl⟩
  · rintro ⟨h0, h1, rfl⟩
    exact ⟨_, ⟨h0, rfl⟩, h1, rfl⟩

theorem blocksOp_succ (T : Word × Word → Word × Word) (p : Platform) (src dst n : Nat) (m : Memory) :
    blocksOp T p src dst (n + 1) m = (blocksOp T p src dst n m).bind (blockOp T p (src + 8 * n) (dst + 8 * n)) := rfl

theorem copyBytes_succ (p : Platform) (src dst n : Nat) (m : Memory) :
    copyBytes p src dst (n + 1) m = (copyBytes p src dst n m).bind (copyByte p (src + n) (dst + n)) := rfl

/-! ## Every memory operation keeps the canonical form -/

theorem blocksOp_wf {T : Word × Word → Word × Word} {p : Platform} {src dst n : Nat} {m m' : Memory} (hw : Memory.wf m)
    (h : blocksOp T p src dst n m = some m') : Memory.wf m' := by
  induction n generalizing m' with
  | zero =>
    cases h
    exact hw
  | succ n ih =>
    rw [blocksOp_succ, Option.bind_eq_some_iff] at h
    obtain ⟨m1, h1, h2⟩ := h
    exact (blockOp_some (ih h1) h2).2.1

theorem copyBytes_wf {p : Platform} {src dst n : Nat} {m m' : Memory} (hw : Memory.wf m)
    (h : copyBytes p src dst n m = some m') : Memory.wf m' := by
  induction n generalizing m' with
  | zero =>
    cases h
    exact hw
  | succ n ih =>
    rw [copyBytes_succ, Option.bind_eq_some_iff] at h
    obtain ⟨m1, h1, h2⟩ := h
    rw [(copyByte_some.mp h2).2.2]
    exact Memory.write_wf (ih h1) _ _

theorem bufferMemory_wf {T : Word × Word → Word × Word} {p : Platform} {o : Operands} {m m' : Memory} (hw : Memory.wf m)
    (h : bufferMemory T p o m = some m') : Memory.wf m' := by
  simp only [bufferMemory, Option.bind_eq_bind, Option.bind_eq_some_iff] at h
  obtain ⟨m1, h1, h2⟩ := h
  split at h2
  · cases h2
    exact blocksOp_wf hw h1
  · exact copyBytes_wf (blocksOp_wf hw h1) h2

theorem drawDest_wf {s : State} (hw : Memory.wf s.mem) (o : Operands) (hit : Nat → Bool) :
    Memory.wf (s.drawDest o hit).mem := drawRange_wf hw _ _ _ _

theorem settleRaces_wf {s : State} (hw : Memory.wf s.mem) (o : Operands) (raced : List Nat) :
    Memory.wf (s.settleRaces o raced).mem := by
  unfold State.settleRaces
  split
  · exact hw
  · exact drawDest_wf hw _ _

theorem bufferDone_wf {m : Memory} (hw : Memory.wf m) (s : State) (o : Operands) (raced : List Nat) :
    Memory.wf (s.bufferDone o raced m).mem := settleRaces_wf (s := { s with mem := m, unobserved := s.owed o }) hw o raced

theorem bufferFailed_wf {s : State} (hw : Memory.wf s.mem) (o : Operands) : Memory.wf (s.bufferFailed o).mem :=
  drawDest_wf (s := { s with unobserved := s.owed o }) hw _ _

theorem commit_wf {m : Memory} (hw : Memory.wf m) (out : List Host.Cell) : Memory.wf (commit out m) := by
  induction out with
  | nil => exact hw
  | cons c out ih => exact Memory.write_wf ih _ _

theorem resetInput_wf {s : State} (hw : Memory.wf s.mem) : Memory.wf s.resetInput.mem := by
  show Memory.wf s.abandon.mem
  unfold State.abandon
  split
  · exact hw
  · split
    · exact drawDest_wf hw _ _
    · exact hw

/-- Reset memory is in canonical form. -/
theorem reset_wf : Memory.wf State.reset.mem := by decide

/-! ## What drawing, committing and the checks can do -/

/-- A byte outside the destination, or one that is not hit, keeps its value when the destination is drawn. -/
theorem read_drawDest {s : State} (hw : Memory.wf s.mem) (o : Operands) (hit : Nat → Bool) (a : Nat)
    (h : o.inDest a = false ∨ hit (a - o.dst.toNat) = false) : (s.drawDest o hit).mem.read a = s.mem.read a := by
  show Memory.read (drawRange _ _ _ _ _) a = _
  rw [read_drawRange hw, if_neg]
  rintro ⟨h1, h2, h3, -⟩
  rcases h with h | h
  · simp only [Operands.inDest, inRange, Bool.and_eq_false_iff, decide_eq_false_iff_not] at h
    omega
  · rw [h] at h3
    cases h3

/-- A byte the command did not write is as memory has it. -/
theorem read_commit_of_not_mem {m : Memory} (hw : Memory.wf m) {out : List Host.Cell} {a : Nat} (h : ∀ c ∈ out, c.1 ≠ a) :
    (commit out m).read a = m.read a := by
  induction out with
  | nil => rfl
  | cons c out ih =>
    show ((commit out m).write c.1 c.2).read a = _
    rw [Memory.read_write (commit_wf hw out), if_neg fun h' => h c List.mem_cons_self h'.symm]
    exact ih fun d hd => h d (List.mem_cons_of_mem _ hd)

/-- A byte the command wrote once is the one it wrote. -/
theorem read_commit_of_mem {m : Memory} (hw : Memory.wf m) {out : List Host.Cell} {a : Nat} {b : Byte}
    (hn : (out.map Prod.fst).Nodup) (h : (a, b) ∈ out) : (commit out m).read a = b := by
  induction out with
  | nil => cases h
  | cons c out ih =>
    show ((commit out m).write c.1 c.2).read a = _
    rw [List.map_cons, List.nodup_cons] at hn
    rw [Memory.read_write (commit_wf hw out)]
    rcases List.mem_cons.mp h with rfl | h
    · rw [if_pos rfl]
    · rw [if_neg, ih hn.2 h]
      intro h'
      exact hn.1 (h' ▸ List.mem_map.mpr ⟨_, h, rfl⟩)

/-- The checks of a buffer command refuse nothing exactly when they pass. -/
theorem bufferRefusal_eq_none {keyed : Bool} {o : Operands} : bufferRefusal keyed o = none ↔ ChecksPass keyed o := by
  have he : o.src.toNat = o.dst.toNat ↔ o.src = o.dst := ⟨BitVec.eq_of_toNat_eq, congrArg _⟩
  unfold bufferRefusal ChecksPass
  simp only [Config.addressSpace, ← he]
  cases keyed
  · simp
  · simp only [Bool.not_true, Bool.false_eq_true, if_false, true_and]
    split
    · simp only [reduceCtorEq, false_iff]
      omega
    · split
      · simp only [reduceCtorEq, false_iff]
        omega
      · simp only [true_iff]
        omega

end Sys2Proof.Machine
end

