-- ==== Sys2Proof/Laws/Cache.lean ====
section
/-! SUPPORT. Laws of host caches: a copy found after one was put or dropped, the canonical form kept, and everything a fill, a
clean and an invalidation can do (20_memory R97). -/

namespace Sys2Proof.Machine

@[simp] theorem Cache.find_nil (a : Nat) : Cache.find [] a = none := rfl

theorem Cache.find_cons (x : Host.Cell) (rest : Cache) (a : Nat) :
    Cache.find (x :: rest) a = if x.1 = a then some x.2 else Cache.find rest a := rfl

/-- No copy is found at an address none is listed at. -/
theorem Cache.find_eq_none {c : Cache} {a : Nat} (h : ∀ x ∈ c, x.1 ≠ a) : c.find a = none := by
  induction c with
  | nil => rfl
  | cons x rest ih =>
    rw [Cache.find_cons, if_neg (h x List.mem_cons_self)]
    exact ih fun y hy => h y (List.mem_cons_of_mem _ hy)

/-- The copy that was put is found, and every other is as it was. -/
theorem Cache.find_put (c : Cache) (a : Nat) (b : Byte) (x : Nat) :
    (c.put a b).find x = if x = a then some b else c.find x := by
  induction c with
  | nil => simp [Cache.put, Cache.find, eq_comm]
  | cons y rest ih =>
    unfold Cache.put
    split
    · simp only [Cache.find_cons, eq_comm (a := a)]
    · split
      · rename_i h
        simp only [Cache.find_cons, h, eq_comm (a := y.1)]
        split <;> simp_all
      · rename_i h
        rw [Cache.find_cons, Cache.find_cons, ih]
        by_cases hy : y.1 = x
        · rw [if_pos hy, if_pos hy, if_neg (by omega)]
        · rw [if_neg hy, if_neg hy]

/-- A dropped copy is not found, and every other is as it was. -/
theorem Cache.find_drop (c : Cache) (a x : Nat) : (c.drop a).find x = if x = a then none else c.find x := by
  induction c with
  | nil => simp [Cache.drop]
  | cons y rest ih =>
    unfold Cache.drop at ih ⊢
    rw [List.filter_cons]
    split
    · rename_i h
      have h : y.1 ≠ a := by simpa using h
      rw [Cache.find_cons, Cache.find_cons, ih]
      by_cases hy : y.1 = x
      · rw [if_pos hy, if_pos hy, if_neg (by omega)]
      · rw [if_neg hy, if_neg hy]
    · rename_i h
      have h : y.1 = a := by simpa using h
      rw [ih, Cache.find_cons]
      by_cases hx : x = a
      · rw [if_pos hx, if_pos hx]
      · rw [if_neg hx, if_neg hx, if_neg (by omega)]

/-- Every copy after a put is the one that was put or was there before. -/
theorem Cache.mem_put {c : Cache} {a : Nat} {b : Byte} {x : Host.Cell} (h : x ∈ c.put a b) : x = (a, b) ∨ x ∈ c := by
  induction c with
  | nil =>
    left
    simpa [Cache.put] using h
  | cons y rest ih =>
    unfold Cache.put at h
    split at h
    · simpa using h
    · split at h
      · rcases List.mem_cons.mp h with h | h
        · exact .inl h
        · exact .inr (List.mem_cons_of_mem _ h)
      · rcases List.mem_cons.mp h with rfl | h
        · exact .inr List.mem_cons_self
        · exact (ih h).imp_right (List.mem_cons_of_mem _)

theorem Cache.put_wf {c : Cache} (h : Cache.wf c) (a : Nat) (b : Byte) : Cache.wf (c.put a b) := by
  induction c with
  | nil => exact List.pairwise_singleton _ _
  | cons y rest ih =>
    obtain ⟨h1, h2⟩ := List.pairwise_cons.mp h
    unfold Cache.put
    split
    · refine List.pairwise_cons.mpr ⟨fun x hx => ?_, h⟩
      rcases List.mem_cons.mp hx with rfl | hx
      · assumption
      · have := h1 x hx
        dsimp only
        omega
    · split
      · subst a
        exact List.pairwise_cons.mpr ⟨h1, h2⟩
      · refine List.pairwise_cons.mpr ⟨fun x hx => ?_, ih h2⟩
        rcases Cache.mem_put hx with rfl | hx
        · dsimp only
          omega
        · exact h1 x hx

theorem Cache.drop_wf {c : Cache} (h : Cache.wf c) (a : Nat) : Cache.wf (c.drop a) := List.Pairwise.filter _ h

theorem State.hostCopy_of_coherent {s : State} (h : s.platform.coherent = true) (a : Nat) : s.hostCopy a = none := by
  simp [State.hostCopy, h]

theorem State.hostCopy_of_cached {s : State} (h : s.platform.coherent = false) (a : Nat) : s.hostCopy a = s.cache.find a := by
  simp [State.hostCopy, h]

/-- A copy that a host access meets is one that a platform's caches hold without keeping it coherent. -/
theorem State.hostCopy_eq_some {s : State} {a : Nat} {b : Byte} :
    s.hostCopy a = some b ↔ s.platform.coherent = false ∧ s.cache.find a = some b := by
  unfold State.hostCopy
  cases s.platform.coherent <;> simp

/-- Everything a fill can do. -/
theorem cacheFill_cases (s : State) (a : Word) (pick : Nat) :
    s.cacheFill a pick = s ∨
      (s.platform.coherent = false ∧ s.cache.find a.toNat = none ∧
        s.cacheFill a pick = { s with cache := s.cache.put a.toNat (s.raceRead a.toNat pick) }) := by
  unfold State.cacheFill
  split
  · exact .inl rfl
  · rename_i h
    rw [Bool.or_eq_true, not_or, Bool.not_eq_true, Bool.not_eq_true, Option.isSome_eq_false_iff, Option.isNone_iff_eq_none] at h
    exact .inr ⟨h.1, h.2, rfl⟩

/-- Everything a clean can do. -/
theorem cacheClean_cases (s : State) (a : Word) :
    (s.hostCopy a.toNat = none ∧ s.cacheClean a = s) ∨
      ∃ b, s.platform.coherent = false ∧ s.cache.find a.toNat = some b ∧ s.cacheClean a = s.arrive a.toNat b := by
  unfold State.cacheClean
  split
  · exact .inl ⟨‹_›, rfl⟩
  · rename_i b h
    exact .inr ⟨b, (State.hostCopy_eq_some.mp h).1, (State.hostCopy_eq_some.mp h).2, rfl⟩

/-- Everything an invalidation can do. -/
theorem cacheInvalidate_cases (s : State) (a : Word) :
    (s.platform.coherent = true ∧ s.cacheInvalidate a = s) ∨
      (s.platform.coherent = false ∧ s.cacheInvalidate a = { s with cache := s.cache.drop a.toNat }) := by
  unfold State.cacheInvalidate
  split
  · exact .inl ⟨‹_›, rfl⟩
  · rename_i h
    exact .inr ⟨by simpa using h, rfl⟩

end Sys2Proof.Machine
end

