-- ==== Sys2Proof/Laws/Cipher.lean ====
section
/-! SUPPORT. Laws of the Cipher State's accessors: a word read after a word was written, for P and for the flat view of S
(10_state R50 to R52). -/

namespace Sys2Proof.Machine

theorem CipherState.pAt_setP (t : CipherState) (i j : Nat) (w : Word) (hi : i < 18) :
    (t.setP i w).pAt j = if j = i then w else t.pAt j := by
  simp only [CipherState.pAt, CipherState.setP, Vector.getElem?_setIfInBounds]
  by_cases h : i = j
  · subst h
    simp [hi]
  · rw [if_neg h, if_neg (fun h' => h h'.symm)]

@[simp] theorem CipherState.sAt_setP (t : CipherState) (i : Nat) (w : Word) (b : Fin 4) (y : Byte) :
    (t.setP i w).sAt b y = t.sAt b y := rfl

@[simp] theorem CipherState.pAt_setFlat (t : CipherState) (f i : Nat) (w : Word) : (t.setFlat f w).pAt i = t.pAt i := by
  unfold CipherState.setFlat
  split <;> rfl

theorem CipherState.sAt_setFlat (t : CipherState) (f : Nat) (w : Word) (b : Fin 4) (y : Byte) (hf : f < 1024) :
    (t.setFlat f w).sAt b y = if 256 * b.val + y.toNat = f then w else t.sAt b y := by
  obtain ⟨b, hb⟩ := b
  have hy : y.toNat < 256 := y.isLt
  unfold CipherState.sAt CipherState.setFlat
  rw [dif_pos hf]
  show ((t.s.set (f / 256) ((t.s[f / 256]'(by omega)).set (f % 256) w (by omega)) (by omega))[b]'hb)[y.toNat]'hy = if 256 * b + y.toNat = f then w else (t.s[b]'hb)[y.toNat]'hy
  by_cases h1 : f / 256 = b
  · subst h1
    rw [Vector.getElem_set_self, Vector.getElem_set]
    by_cases h2 : f % 256 = y.toNat
    · rw [if_pos h2, if_pos (by omega)]
    · rw [if_neg h2, if_neg (by omega)]
  · rw [Vector.getElem_set_ne _ _ h1, if_neg (by omega)]

/-- Equal words make equal Cipher States. -/
theorem CipherState.ext_of_words {t t' : CipherState} (hp : ∀ i, i < 18 → t.pAt i = t'.pAt i)
    (hs : ∀ b y, t.sAt b y = t'.sAt b y) : t = t' := by
  cases t with
  | mk p s =>
    cases t' with
    | mk p' s' =>
      simp only [CipherState.mk.injEq]
      constructor
      · apply Vector.ext
        intro i hi
        have := hp i hi
        simpa [CipherState.pAt, Vector.getElem?_eq_getElem hi] using this
      · apply Vector.ext
        intro b hb
        apply Vector.ext
        intro i hi
        have := hs ⟨b, hb⟩ (BitVec.ofNat 8 i)
        simpa [CipherState.sAt, Nat.mod_eq_of_lt hi] using this

end Sys2Proof.Machine
end

