-- ==== Sys2Proof/Laws/Decode.lean ====
section
/-! SUPPORT. Laws of the decoder's fields and of the two questions asked of a command word (30_encoding R111, R112, R114). -/

namespace Sys2Proof

/-- OP is the word modulo 16. -/
theorem opField_toNat (w : Word) : (opField w).toNat = w.toNat % 16 := by
  simp [opField, BitVec.extractLsb'_toNat]

/-- RSV is the word divided by 16. -/
theorem rsvField_toNat (w : Word) : (rsvField w).toNat = w.toNat / 16 := by
  simp only [rsvField, BitVec.extractLsb'_toNat, Nat.shiftRight_eq_div_pow]
  omega

/-- A command's word has RSV zero and the command's OP. -/
theorem encode_fields (i : Instr) : rsvField (encode i) = 0#28 ∧ opField (encode i) = opcode i := by
  cases i <;> decide

namespace Machine

theorem isSchedule_iff (w : Word) : isSchedule w = true ↔ decode w = .ok .schedule := by
  unfold isSchedule
  split <;> simp_all

theorem isBuffer_iff (w : Word) : isBuffer w = true ↔ decode w = .ok .encBuf ∨ decode w = .ok .decBuf := by
  unfold isBuffer
  split <;> simp_all

end Machine

end Sys2Proof
end

