-- ==== Sys2Proof/Laws/Engine.lean ====
section
/-! SUPPORT. Laws of the engine: everything a command's meaning can do (60_exceptions R213), everything one micro-step can do,
and the choice among open accesses. -/

namespace Sys2Proof.Machine

theorem chosen_cases {α : Type} (pick : Nat) (todo : List α) :
    (todo = [] ∧ chosen pick todo = none) ∨
      ∃ x, chosen pick todo = some x ∧ x ∈ todo ∧ ∃ h : pick % todo.length < todo.length, todo[pick % todo.length] = x := by
  cases todo with
  | nil => exact .inl ⟨rfl, rfl⟩
  | cons y ys =>
    have h : pick % (y :: ys).length < (y :: ys).length := Nat.mod_lt _ (by simp)
    exact .inr ⟨_, List.getElem?_eq_getElem h, List.getElem_mem h, h, rfl⟩

/-- Everything a command's meaning can do. -/
theorem exec_cases (i : Instr) (s : State) :
    (i = .schedule ∧ exec i s = .next s.scheduleFailed) ∨
      (i = .schedule ∧ 0 < sKeylen s.operands.keylen ∧
        exec i s = .next (s.scheduleDone (scheduleTables s.operands.key (sKeylen s.operands.keylen).toNat))) ∨
      (i ≠ .schedule ∧ ∃ code, exec i s = .next (s.complete code)) ∨
      ((i = .encBlock ∨ i = .decBlock) ∧ s.keyed = true ∧ ∃ lr, exec i s = .next (s.blockDone lr)) ∨
      ((i = .encBuf ∨ i = .decBuf) ∧ s.keyed = true ∧
        (exec i s = .next (s.bufferFailed s.operands) ∨
          ∃ m, exec i s = .next (s.bufferDone s.operands s.raced m))) := by
  have keyed {o : Operands} (h : bufferRefusal s.keyed o = none) : s.keyed = true := by
    cases hk : s.keyed
    · rw [hk] at h
      cases h
    · rfl
  have buffer (T : Word × Word → Word × Word) :
      (∃ code, s.bufferCommand T = s.complete code) ∨ (s.keyed = true ∧
        (s.bufferCommand T = s.bufferFailed s.operands ∨ ∃ m, s.bufferCommand T = s.bufferDone s.operands s.raced m)) := by
    unfold State.bufferCommand
    split
    · exact .inl ⟨_, rfl⟩
    · rename_i hn
      split
      · exact .inr ⟨keyed hn, .inl rfl⟩
      · exact .inr ⟨keyed hn, .inr ⟨_, rfl⟩⟩
  have block (T : Word × Word → Word × Word) :
      (∃ code, s.blockCommand T = s.complete code) ∨ (s.keyed = true ∧ ∃ lr, s.blockCommand T = s.blockDone lr) := by
    unfold State.blockCommand
    split
    · exact .inr ⟨‹_›, _, rfl⟩
    · exact .inl ⟨_, rfl⟩
  cases i with
  | schedule =>
    simp only [exec, execSchedule]
    split
    · exact .inl ⟨trivial, rfl⟩
    · exact .inr (.inl ⟨trivial, by omega, rfl⟩)
  | encBlock =>
    rcases block (encryptBlock s.cipher) with ⟨c, h⟩ | ⟨hk, lr, h⟩
    · exact .inr (.inr (.inl ⟨nofun, c, congrArg _ h⟩))
    · exact .inr (.inr (.inr (.inl ⟨.inl rfl, hk, lr, congrArg _ h⟩)))
  | decBlock =>
    rcases block (decryptBlock s.cipher) with ⟨c, h⟩ | ⟨hk, lr, h⟩
    · exact .inr (.inr (.inl ⟨nofun, c, congrArg _ h⟩))
    · exact .inr (.inr (.inr (.inl ⟨.inr rfl, hk, lr, congrArg _ h⟩)))
  | encBuf =>
    rcases buffer (encryptBlock s.cipher) with ⟨c, h⟩ | ⟨hk, h | ⟨m, h⟩⟩
    · exact .inr (.inr (.inl ⟨nofun, c, congrArg _ h⟩))
    · exact .inr (.inr (.inr (.inr ⟨.inl rfl, hk, .inl (congrArg _ h)⟩)))
    · exact .inr (.inr (.inr (.inr ⟨.inl rfl, hk, .inr ⟨m, congrArg _ h⟩⟩)))
  | decBuf =>
    rcases buffer (decryptBlock s.cipher) with ⟨c, h⟩ | ⟨hk, h | ⟨m, h⟩⟩
    · exact .inr (.inr (.inl ⟨nofun, c, congrArg _ h⟩))
    · exact .inr (.inr (.inr (.inr ⟨.inr rfl, hk, .inl (congrArg _ h)⟩)))
    · exact .inr (.inr (.inr (.inr ⟨.inr rfl, hk, .inr ⟨m, congrArg _ h⟩⟩)))

/-- Everything a micro-step of a running command can do: go on with new progress and written bytes, the tables changing only in
SCHEDULE; or complete as the command's kind and progress say. -/
theorem tick_cases {s : State} {r : Run} (pick : Nat) (hq : s.seq = .busy r) :
    (∃ p out c, s.tick pick = { s with cipher := c, seq := .busy { r with progress := p, out := out } } ∧
      (c = s.cipher ∨ (r.progress = .checks ∧ decode r.word = .ok .schedule) ∨
        ∃ n round l h, r.progress = .sched n round l h)) ∨
    (∃ e, decode r.word = .error e ∧ s.tick pick = s.illegalCommand) ∨
    (decode r.word = .ok .schedule ∧ r.progress = .checks ∧ s.tick pick = s.scheduleFailed) ∨
    ((∃ n round l h, r.progress = .sched n round l h) ∧ ∃ t, s.tick pick = s.scheduleDone t) ∨
    (r.progress = .checks ∧ decode r.word ≠ .ok .schedule ∧ ∃ code, s.tick pick = s.complete code) ∨
    ((∃ round l h, r.progress = .block round l h) ∧ ∃ lr, s.tick pick = s.blockDone lr) ∨
    (((∃ j todo b, r.progress = .read j todo b) ∨ (∃ j todo l h, r.progress = .write j todo l h) ∨
      ∃ x y, r.progress = .tail x y) ∧ s.tick pick = s.bufferFailed r.ops) ∨
    ((∃ x y, r.progress = .tail x y) ∧ s.tick pick = s.bufferDone r.ops r.raced (commit r.out s.mem)) := by
  unfold State.tick
  rw [hq]
  dsimp only
  cases hd : decode r.word with
  | error e => exact .inr (.inl ⟨e, rfl, rfl⟩)
  | ok i =>
    dsimp only
    split
    · rename_i hx
      refine .inr (.inr (.inr (.inr (.inr (.inr (.inl ⟨?_, rfl⟩))))))
      cases hp : r.progress <;> rw [hp] at hx <;> first
        | contradiction
        | exact .inl ⟨_, _, _, rfl⟩
        | exact .inr (.inl ⟨_, _, _, _, rfl⟩)
        | exact .inr (.inr ⟨_, _, rfl⟩)
    · cases hp : r.progress with
      | checks =>
        simp only [tickProgress, hp]
        cases i with
        | schedule =>
          simp only [tickChecks]
          split
          · exact .inr (.inr (.inl ⟨trivial, trivial, rfl⟩))
          · exact .inl ⟨_, _, _, rfl, .inr (.inl ⟨trivial, trivial⟩)⟩
        | encBlock =>
          simp only [tickChecks]
          split
          · exact .inl ⟨_, _, _, rfl, .inl rfl⟩
          · exact .inr (.inr (.inr (.inr (.inl ⟨trivial, nofun, _, rfl⟩))))
        | decBlock =>
          simp only [tickChecks]
          split
          · exact .inl ⟨_, _, _, rfl, .inl rfl⟩
          · exact .inr (.inr (.inr (.inr (.inl ⟨trivial, nofun, _, rfl⟩))))
        | encBuf =>
          simp only [tickChecks]
          split
          · exact .inr (.inr (.inr (.inr (.inl ⟨trivial, nofun, _, rfl⟩))))
          · exact .inl ⟨_, _, _, rfl, .inl rfl⟩
        | decBuf =>
          simp only [tickChecks]
          split
          · exact .inr (.inr (.inr (.inr (.inl ⟨trivial, nofun, _, rfl⟩))))
          · exact .inl ⟨_, _, _, rfl, .inl rfl⟩
      | sched n round l h =>
        simp only [tickProgress, hp, tickSched]
        split
        · exact .inl ⟨_, _, _, rfl, .inl rfl⟩
        · split
          · exact .inl ⟨_, _, _, rfl, .inr (.inr ⟨_, _, _, _, rfl⟩)⟩
          · exact .inr (.inr (.inr (.inl ⟨⟨_, _, _, _, rfl⟩, _, rfl⟩)))
      | block round l h =>
        simp only [tickProgress, hp, tickBlock]
        split
        · exact .inl ⟨_, _, _, rfl, .inl rfl⟩
        · exact .inr (.inr (.inr (.inr (.inr (.inl ⟨⟨_, _, _, rfl⟩, _, rfl⟩)))))
      | read j todo b =>
        simp only [tickProgress, hp, tickRead]
        split <;> exact .inl ⟨_, _, _, rfl, .inl rfl⟩
      | rounds j round l h =>
        simp only [tickProgress, hp, tickRounds]
        split <;> exact .inl ⟨_, _, _, rfl, .inl rfl⟩
      | write j todo l h =>
        simp only [tickProgress, hp, tickWrite]
        split <;> exact .inl ⟨_, _, _, rfl, .inl rfl⟩
      | tail toRead toWrite =>
        simp only [tickProgress, hp, tickTail]
        split
        · exact .inr (.inr (.inr (.inr (.inr (.inr (.inr ⟨⟨_, _, rfl⟩, rfl⟩))))))
        · exact .inl ⟨_, _, _, rfl, .inl rfl⟩
        · exact .inl ⟨_, _, _, rfl, .inl rfl⟩

/-- A command's outcome does not depend on how far its run has come: the sequencer matters only by the latched operands and the
recorded races. -/
theorem exec_of_sequencer {s : State} {q : Sequencer} (ho : State.operands { s with seq := q } = s.operands)
    (hr : State.raced { s with seq := q } = s.raced) (i : Instr) : exec i { s with seq := q } = exec i s := by
  have buffer (T : Word × Word → Word × Word) : State.bufferCommand { s with seq := q } T = s.bufferCommand T := by
    simp only [State.bufferCommand, ho, hr]
    split
    · rfl
    · split
      · rfl
      · simp only [State.bufferDone, State.settleRaces]
        split <;> rfl
  have block (T : Word × Word → Word × Word) : State.blockCommand { s with seq := q } T = s.blockCommand T := by
    simp only [State.blockCommand, ho]
    split <;> rfl
  cases i with
  | schedule =>
    simp only [exec, execSchedule, ho]
    rfl
  | encBlock => exact congrArg Host.Outcome.next (block _)
  | decBlock => exact congrArg Host.Outcome.next (block _)
  | encBuf => exact congrArg Host.Outcome.next (buffer _)
  | decBuf => exact congrArg Host.Outcome.next (buffer _)

theorem exec_goTo {s : State} {r : Run} (hq : s.seq = .busy r) (p : Progress) (out : List Host.Cell) (i : Instr) :
    exec i (s.goTo { r with out := out } p) = exec i s :=
  exec_of_sequencer (by simp [State.operands, hq]) (by simp [State.raced, hq]) i

/-- A micro-step whose access, if it makes one, gets no error response. -/
theorem tick_of_access {s : State} {r : Run} {i : Instr} {pick : Nat} (hq : s.seq = .busy r) (hd : decode r.word = .ok i)
    (ha : accessFails s.platform (nextAccess r.ops pick r.progress) = false) : s.tick pick = tickProgress pick i r s := by
  unfold State.tick
  simp [hq, hd, ha]

end Sys2Proof.Machine
end

