-- ==== Sys2Proof/Laws/HostPort.lean ====
section
/-! SUPPORT. Laws of the host port: what an access at each offset of the CSR window does (10_state R31, R47, R48), and the
step with an event to handle. -/

namespace Sys2Proof.Machine

theorem step_of_event {s : State} {e : Event} {rest : List Event} (h : s.inputs = e :: rest) :
    step s = handle e { s with inputs := rest } := by
  unfold step
  rw [h]

theorem step_of_no_event {s : State} (h : s.inputs = []) : step s = engineRun s := by
  unfold step
  rw [h]

theorem regAt_key (j : Fin 18) : regAt (0x040 + 4 * j.val) = some (.key j) := by
  revert j
  decide

theorem regAt_regOffset (r : Reg) : regAt (regOffset r) = some r := by
  cases r with
  | key j => exact regAt_key j
  | _ => rfl

theorem regOffset_lt (r : Reg) : regOffset r < 0x100 ∧ regOffset r % 4 = 0 := by
  cases r with
  | key j => exact ⟨by simp only [regOffset]; omega, by simp only [regOffset]; omega⟩
  | _ => decide

/-- An offset at which a register stands is that register's. -/
theorem regOffset_of_regAt {offset : Nat} {r : Reg} (h4 : offset % 4 = 0) (h : regAt offset = some r) :
    regOffset r = offset := by
  unfold regAt at h
  repeat' split at h
  all_goals first
    | contradiction
    | (cases h; simp only [regOffset]; omega)

theorem regAt_reserved {offset : Nat} (h : (0x028 ≤ offset ∧ offset ≤ 0x03C) ∨ (0x088 ≤ offset ∧ offset ≤ 0x0FC)) :
    regAt offset = none := by
  unfold regAt
  repeat rw [if_neg (by omega)]
  rw [dif_neg (by omega)]

theorem inWindow_offset (s : State) {offset : Nat} (h : offset < 0x100) :
    s.inWindow (s.platform.base + offset) = true := by
  simp [State.inWindow, inRange, csrWindow, h]

theorem csrRead_register (s : State) {offset : Nat} {r : Reg} (h : offset < 0x100) (h4 : offset % 4 = 0)
    (hr : regAt offset = some r) : s.csrRead (s.platform.base + offset) 4 =
      (s.afterRead r).respond (.data (s.readReg r)) := by
  simp [State.csrRead, inWindow_offset s h, csrAccessOk, h4, hr]

theorem csrWrite_register (s : State) {offset : Nat} {r : Reg} (v : Word) (h : offset < 0x100) (h4 : offset % 4 = 0)
    (hr : regAt offset = some r) : s.csrWrite (s.platform.base + offset) 4 v = (s.writeReg r v).respond .written := by
  simp [State.csrWrite, inWindow_offset s h, csrAccessOk, h4, hr]

theorem csrRead_reserved (s : State) {offset : Nat} (h : offset < 0x100) (h4 : offset % 4 = 0)
    (hr : regAt offset = none) : s.csrRead (s.platform.base + offset) 4 = s.respond (.data 0#32) := by
  simp [State.csrRead, inWindow_offset s h, csrAccessOk, h4, hr]

theorem csrWrite_reserved (s : State) {offset : Nat} (v : Word) (h : offset < 0x100) (h4 : offset % 4 = 0)
    (hr : regAt offset = none) : s.csrWrite (s.platform.base + offset) 4 v = s.respond .written := by
  simp [State.csrWrite, inWindow_offset s h, csrAccessOk, h4, hr]

/-- What a STATUS read can observe: everything or nothing. -/
theorem afterRead_cases (s : State) (r : Reg) :
    s.afterRead r = s ∨ (r = .status ∧ (s.done = true ∨ s.busy = false) ∧ s.afterRead r = { s with unobserved := [] }) := by
  unfold State.afterRead
  split
  · unfold State.observe
    split
    · exact .inr ⟨‹_›, by simp_all, rfl⟩
    · exact .inl rfl
  · exact .inl rfl

/-- What a host read can do: it answers, observes the completions (a STATUS read with DONE = 1 or BUSY = 0), and changes nothing
else. -/
theorem csrRead_eq (s : State) (addr size : Nat) :
    s.csrRead addr size = s ∨ (∃ x, s.csrRead addr size = s.respond x) ∨
      ((s.done = true ∨ s.busy = false) ∧ ∃ x, s.csrRead addr size = { s with response := x, unobserved := [] }) := by
  unfold State.csrRead
  split
  · exact .inl rfl
  · split
    · exact .inr (.inl ⟨_, rfl⟩)
    · split
      · exact .inr (.inl ⟨_, rfl⟩)
      · rename_i r _
        rcases afterRead_cases s r with h | ⟨-, hd, h⟩
        · exact .inr (.inl ⟨_, by rw [h]⟩)
        · exact .inr (.inr ⟨hd, .data (s.readReg r), by rw [h]; rfl⟩)

/-- What a host write can do: nothing but the answer, or the write of the register at its offset. -/
theorem csrWrite_cases (s : State) (addr size : Nat) (v : Word) :
    s.csrWrite addr size v = s ∨ (∃ x, s.csrWrite addr size v = s.respond x) ∨
      ∃ r, size = 4 ∧ addr = s.platform.base + regOffset r ∧
        s.csrWrite addr size v = (s.writeReg r v).respond .written := by
  unfold State.csrWrite
  split
  · exact .inl rfl
  · rename_i hw
    split
    · exact .inr (.inl ⟨_, rfl⟩)
    · rename_i ha
      split
      · exact .inr (.inl ⟨_, rfl⟩)
      · rename_i r hr
        simp only [State.inWindow, inRange, csrWindow, Bool.not_eq_true', Bool.and_eq_false_iff, decide_eq_false_iff_not,
          not_or, not_not] at hw
        simp only [csrAccessOk, Bool.not_eq_true', Bool.and_eq_false_iff, beq_eq_false_iff_ne, ne_eq, not_or,
          not_not] at ha
        refine .inr (.inr ⟨r, ha.1, ?_, rfl⟩)
        rw [regOffset_of_regAt ha.2 hr]
        omega

/-- A store by an idle machine's host races with nothing. -/
@[simp] theorem noteStore_idle (a : Nat) : Sequencer.noteStore .idle a = .idle := rfl

/-- Everything a store can do to a running command: it is remembered when it falls into a buffer command's ranges. -/
theorem noteStore_busy (r : Run) (a : Nat) :
    Sequencer.noteStore (.busy r) a = .busy { r with
      raced := if (decode r.word = .ok .encBuf ∨ decode r.word = .ok .decBuf) ∧
          (r.ops.inSource a = true ∨ r.ops.inDest a = true)
        then a :: r.raced else r.raced } := by
  unfold Sequencer.noteStore
  dsimp only
  by_cases h : isBuffer r.word = true ∧ (r.ops.inSource a = true ∨ r.ops.inDest a = true)
  · rw [if_pos (by simpa using h), if_pos ⟨(isBuffer_iff _).mp h.1, h.2⟩]
  · rw [if_neg (by simpa using h), if_neg (by rwa [← isBuffer_iff])]

/-- What `pick` chooses of a list that is not empty is one of its elements. -/
theorem chosen_mem {α : Type} (pick : Nat) (x : α) (xs : List α) (y : α) : (chosen pick (x :: xs)).getD y ∈ x :: xs := by
  have h : pick % (x :: xs).length < (x :: xs).length := Nat.mod_lt _ (by simp)
  rw [chosen, List.getElem?_eq_getElem h]
  exact List.getElem_mem h

/-- A host read of memory gives the stored byte, or, racing, one that the running command has written to its destination, or an
old byte of a destination whose command's completion is not observed. -/
theorem raceRead_cases (s : State) (a pick : Nat) :
    s.raceRead a pick = s.mem.read a ∨
      (∃ r, s.seq = .busy r ∧ r.ops.inDest a = true ∧ (a, s.raceRead a pick) ∈ r.out) ∨
      ∃ d ∈ s.unobserved, d.ops.inDest a = true ∧ s.raceRead a pick = d.before.read a := by
  have h := chosen_mem pick (s.mem.read a) ((s.newByte a).toList ++ s.oldBytes a) (s.mem.read a)
  change s.raceRead a pick ∈ _ at h
  generalize s.raceRead a pick = b at h
  rcases List.mem_cons.mp h with h | h
  · exact .inl h
  · rcases List.mem_append.mp h with h | h
    · refine .inr (.inl ?_)
      rw [Option.mem_toList] at h
      unfold State.newByte at h
      split at h
      · cases h
      · rename_i r hq
        split at h
        · obtain ⟨before, after, e, -⟩ := List.lookup_eq_some_iff.mp h
          exact ⟨r, hq, ‹_›, e ▸ List.mem_append_right _ List.mem_cons_self⟩
        · cases h
    · obtain ⟨d, hd, rfl⟩ := List.mem_map.mp h
      obtain ⟨hd, hi⟩ := List.mem_filter.mp hd
      exact .inr (.inr ⟨d, hd, hi, rfl⟩)

/-- Where no read races, a host read of memory gives the stored byte. -/
theorem raceRead_of_observed {s : State} (hq : s.seq = .idle) (hu : s.unobserved = []) (a pick : Nat) :
    s.raceRead a pick = s.mem.read a := by
  rcases raceRead_cases s a pick with h | ⟨r, hr, -⟩ | ⟨d, hd, -⟩
  · exact h
  · rw [hq] at hr
    cases hr
  · rw [hu] at hd
    cases hd

/-- What a host load can do. -/
theorem hostLoad_eq (s : State) (a : Word) (pick : Nat) : ∃ b, s.hostLoad a pick = s.respond (.byte b) := by
  unfold State.hostLoad
  split <;> exact ⟨_, rfl⟩

end Sys2Proof.Machine
end

