-- ==== Sys2Proof/Laws/PerInstr.lean ====
section
/-! SUPPORT. A statement made per command, with one lemma for each: its command word is well formed and is its OP
(30_encoding R112, R114). -/

namespace Sys2Proof.Laws.CommandWord

/-- The command word of `i` has RSV clear and a defined OP, and is that OP. -/
def Statement (i : Instr) : Prop :=
  i.wellFormed = true ∧ WellFormed.commandWord (encode i) = true ∧ (encode i).toNat = (opcode i).toNat

theorem schedule : Statement .schedule := by unfold Statement; decide
theorem encBlock : Statement .encBlock := by unfold Statement; decide
theorem decBlock : Statement .decBlock := by unfold Statement; decide
theorem encBuf : Statement .encBuf := by unfold Statement; decide
theorem decBuf : Statement .decBuf := by unfold Statement; decide

end Sys2Proof.Laws.CommandWord
end

