-- ==== Sys2Proof/Laws/State.lean ====
section
/-! SUPPORT. One lemma per field for each update of the state, true by definition, so that no later proof unfolds a record
update. -/

namespace Sys2Proof.Machine

@[simp] theorem State.complete_ie (s : State) (code : ErrCode) : (s.complete code).ie = s.ie := rfl
@[simp] theorem State.complete_done (s : State) (code : ErrCode) : (s.complete code).done = true := rfl
@[simp] theorem State.complete_keyed (s : State) (code : ErrCode) : (s.complete code).keyed = s.keyed := rfl
@[simp] theorem State.complete_ovr (s : State) (code : ErrCode) : (s.complete code).ovr = s.ovr := rfl
@[simp] theorem State.complete_err (s : State) (code : ErrCode) : (s.complete code).err = code := rfl
@[simp] theorem State.complete_keylen (s : State) (code : ErrCode) : (s.complete code).keylen = s.keylen := rfl
@[simp] theorem State.complete_src (s : State) (code : ErrCode) : (s.complete code).src = s.src := rfl
@[simp] theorem State.complete_dst (s : State) (code : ErrCode) : (s.complete code).dst = s.dst := rfl
@[simp] theorem State.complete_len (s : State) (code : ErrCode) : (s.complete code).len = s.len := rfl
@[simp] theorem State.complete_blkL (s : State) (code : ErrCode) : (s.complete code).blkL = s.blkL := rfl
@[simp] theorem State.complete_blkR (s : State) (code : ErrCode) : (s.complete code).blkR = s.blkR := rfl
@[simp] theorem State.complete_key (s : State) (code : ErrCode) : (s.complete code).key = s.key := rfl
@[simp] theorem State.complete_cipher (s : State) (code : ErrCode) : (s.complete code).cipher = s.cipher := rfl
@[simp] theorem State.complete_seq (s : State) (code : ErrCode) : (s.complete code).seq = .idle := rfl
@[simp] theorem State.complete_mem (s : State) (code : ErrCode) : (s.complete code).mem = s.mem := rfl
@[simp] theorem State.complete_platform (s : State) (code : ErrCode) : (s.complete code).platform = s.platform := rfl
@[simp] theorem State.complete_cache (s : State) (code : ErrCode) : (s.complete code).cache = s.cache := rfl
@[simp] theorem State.complete_unobserved (s : State) (code : ErrCode) : (s.complete code).unobserved = s.unobserved := rfl
@[simp] theorem State.complete_inputs (s : State) (code : ErrCode) : (s.complete code).inputs = s.inputs := rfl
@[simp] theorem State.complete_response (s : State) (code : ErrCode) : (s.complete code).response = s.response := rfl
@[simp] theorem State.complete_draws (s : State) (code : ErrCode) : (s.complete code).draws = s.draws := rfl

@[simp] theorem State.accept_ie (s : State) (w : Word) : (s.accept w).ie = s.ie := rfl
@[simp] theorem State.accept_done (s : State) (w : Word) : (s.accept w).done = false := rfl
@[simp] theorem State.accept_keyed (s : State) (w : Word) : (s.accept w).keyed = (s.keyed && !isSchedule w) := rfl
@[simp] theorem State.accept_ovr (s : State) (w : Word) : (s.accept w).ovr = s.ovr := rfl
@[simp] theorem State.accept_err (s : State) (w : Word) : (s.accept w).err = .ok := rfl
@[simp] theorem State.accept_keylen (s : State) (w : Word) : (s.accept w).keylen = s.keylen := rfl
@[simp] theorem State.accept_src (s : State) (w : Word) : (s.accept w).src = s.src := rfl
@[simp] theorem State.accept_dst (s : State) (w : Word) : (s.accept w).dst = s.dst := rfl
@[simp] theorem State.accept_len (s : State) (w : Word) : (s.accept w).len = s.len := rfl
@[simp] theorem State.accept_blkL (s : State) (w : Word) : (s.accept w).blkL = s.blkL := rfl
@[simp] theorem State.accept_blkR (s : State) (w : Word) : (s.accept w).blkR = s.blkR := rfl
@[simp] theorem State.accept_key (s : State) (w : Word) : (s.accept w).key = s.key := rfl
@[simp] theorem State.accept_cipher (s : State) (w : Word) : (s.accept w).cipher = s.cipher := rfl
@[simp] theorem State.accept_seq (s : State) (w : Word) : (s.accept w).seq = .busy ⟨w, s.latch, .checks, [], []⟩ := rfl
@[simp] theorem State.accept_mem (s : State) (w : Word) : (s.accept w).mem = s.mem := rfl
@[simp] theorem State.accept_platform (s : State) (w : Word) : (s.accept w).platform = s.platform := rfl
@[simp] theorem State.accept_cache (s : State) (w : Word) : (s.accept w).cache = s.cache := rfl
@[simp] theorem State.accept_unobserved (s : State) (w : Word) : (s.accept w).unobserved = s.unobserved := rfl
@[simp] theorem State.accept_inputs (s : State) (w : Word) : (s.accept w).inputs = s.inputs := rfl
@[simp] theorem State.accept_response (s : State) (w : Word) : (s.accept w).response = s.response := rfl
@[simp] theorem State.accept_draws (s : State) (w : Word) : (s.accept w).draws = s.draws := rfl

@[simp] theorem State.goTo_ie (s : State) (r : Run) (p : Progress) : (s.goTo r p).ie = s.ie := rfl
@[simp] theorem State.goTo_done (s : State) (r : Run) (p : Progress) : (s.goTo r p).done = s.done := rfl
@[simp] theorem State.goTo_keyed (s : State) (r : Run) (p : Progress) : (s.goTo r p).keyed = s.keyed := rfl
@[simp] theorem State.goTo_ovr (s : State) (r : Run) (p : Progress) : (s.goTo r p).ovr = s.ovr := rfl
@[simp] theorem State.goTo_err (s : State) (r : Run) (p : Progress) : (s.goTo r p).err = s.err := rfl
@[simp] theorem State.goTo_keylen (s : State) (r : Run) (p : Progress) : (s.goTo r p).keylen = s.keylen := rfl
@[simp] theorem State.goTo_src (s : State) (r : Run) (p : Progress) : (s.goTo r p).src = s.src := rfl
@[simp] theorem State.goTo_dst (s : State) (r : Run) (p : Progress) : (s.goTo r p).dst = s.dst := rfl
@[simp] theorem State.goTo_len (s : State) (r : Run) (p : Progress) : (s.goTo r p).len = s.len := rfl
@[simp] theorem State.goTo_blkL (s : State) (r : Run) (p : Progress) : (s.goTo r p).blkL = s.blkL := rfl
@[simp] theorem State.goTo_blkR (s : State) (r : Run) (p : Progress) : (s.goTo r p).blkR = s.blkR := rfl
@[simp] theorem State.goTo_key (s : State) (r : Run) (p : Progress) : (s.goTo r p).key = s.key := rfl
@[simp] theorem State.goTo_cipher (s : State) (r : Run) (p : Progress) : (s.goTo r p).cipher = s.cipher := rfl
@[simp] theorem State.goTo_seq (s : State) (r : Run) (p : Progress) : (s.goTo r p).seq = .busy { r with progress := p } := rfl
@[simp] theorem State.goTo_mem (s : State) (r : Run) (p : Progress) : (s.goTo r p).mem = s.mem := rfl
@[simp] theorem State.goTo_platform (s : State) (r : Run) (p : Progress) : (s.goTo r p).platform = s.platform := rfl
@[simp] theorem State.goTo_cache (s : State) (r : Run) (p : Progress) : (s.goTo r p).cache = s.cache := rfl
@[simp] theorem State.goTo_unobserved (s : State) (r : Run) (p : Progress) : (s.goTo r p).unobserved = s.unobserved := rfl
@[simp] theorem State.goTo_inputs (s : State) (r : Run) (p : Progress) : (s.goTo r p).inputs = s.inputs := rfl
@[simp] theorem State.goTo_response (s : State) (r : Run) (p : Progress) : (s.goTo r p).response = s.response := rfl
@[simp] theorem State.goTo_draws (s : State) (r : Run) (p : Progress) : (s.goTo r p).draws = s.draws := rfl

@[simp] theorem State.respond_ie (s : State) (x : Response) : (s.respond x).ie = s.ie := rfl
@[simp] theorem State.respond_done (s : State) (x : Response) : (s.respond x).done = s.done := rfl
@[simp] theorem State.respond_keyed (s : State) (x : Response) : (s.respond x).keyed = s.keyed := rfl
@[simp] theorem State.respond_ovr (s : State) (x : Response) : (s.respond x).ovr = s.ovr := rfl
@[simp] theorem State.respond_err (s : State) (x : Response) : (s.respond x).err = s.err := rfl
@[simp] theorem State.respond_keylen (s : State) (x : Response) : (s.respond x).keylen = s.keylen := rfl
@[simp] theorem State.respond_src (s : State) (x : Response) : (s.respond x).src = s.src := rfl
@[simp] theorem State.respond_dst (s : State) (x : Response) : (s.respond x).dst = s.dst := rfl
@[simp] theorem State.respond_len (s : State) (x : Response) : (s.respond x).len = s.len := rfl
@[simp] theorem State.respond_blkL (s : State) (x : Response) : (s.respond x).blkL = s.blkL := rfl
@[simp] theorem State.respond_blkR (s : State) (x : Response) : (s.respond x).blkR = s.blkR := rfl
@[simp] theorem State.respond_key (s : State) (x : Response) : (s.respond x).key = s.key := rfl
@[simp] theorem State.respond_cipher (s : State) (x : Response) : (s.respond x).cipher = s.cipher := rfl
@[simp] theorem State.respond_seq (s : State) (x : Response) : (s.respond x).seq = s.seq := rfl
@[simp] theorem State.respond_mem (s : State) (x : Response) : (s.respond x).mem = s.mem := rfl
@[simp] theorem State.respond_platform (s : State) (x : Response) : (s.respond x).platform = s.platform := rfl
@[simp] theorem State.respond_cache (s : State) (x : Response) : (s.respond x).cache = s.cache := rfl
@[simp] theorem State.respond_unobserved (s : State) (x : Response) : (s.respond x).unobserved = s.unobserved := rfl
@[simp] theorem State.respond_inputs (s : State) (x : Response) : (s.respond x).inputs = s.inputs := rfl
@[simp] theorem State.respond_response (s : State) (x : Response) : (s.respond x).response = x := rfl
@[simp] theorem State.respond_draws (s : State) (x : Response) : (s.respond x).draws = s.draws := rfl

@[simp] theorem State.writeCtrl_ie (s : State) (v : Word) : (s.writeCtrl v).ie = v.getLsbD 0 := rfl
@[simp] theorem State.writeCtrl_done (s : State) (v : Word) : (s.writeCtrl v).done = s.done := rfl
@[simp] theorem State.writeCtrl_keyed (s : State) (v : Word) : (s.writeCtrl v).keyed = s.keyed := rfl
@[simp] theorem State.writeCtrl_ovr (s : State) (v : Word) : (s.writeCtrl v).ovr = s.ovr := rfl
@[simp] theorem State.writeCtrl_err (s : State) (v : Word) : (s.writeCtrl v).err = s.err := rfl
@[simp] theorem State.writeCtrl_keylen (s : State) (v : Word) : (s.writeCtrl v).keylen = s.keylen := rfl
@[simp] theorem State.writeCtrl_src (s : State) (v : Word) : (s.writeCtrl v).src = s.src := rfl
@[simp] theorem State.writeCtrl_dst (s : State) (v : Word) : (s.writeCtrl v).dst = s.dst := rfl
@[simp] theorem State.writeCtrl_len (s : State) (v : Word) : (s.writeCtrl v).len = s.len := rfl
@[simp] theorem State.writeCtrl_blkL (s : State) (v : Word) : (s.writeCtrl v).blkL = s.blkL := rfl
@[simp] theorem State.writeCtrl_blkR (s : State) (v : Word) : (s.writeCtrl v).blkR = s.blkR := rfl
@[simp] theorem State.writeCtrl_key (s : State) (v : Word) : (s.writeCtrl v).key = s.key := rfl
@[simp] theorem State.writeCtrl_cipher (s : State) (v : Word) : (s.writeCtrl v).cipher = s.cipher := rfl
@[simp] theorem State.writeCtrl_seq (s : State) (v : Word) : (s.writeCtrl v).seq = s.seq := rfl
@[simp] theorem State.writeCtrl_mem (s : State) (v : Word) : (s.writeCtrl v).mem = s.mem := rfl
@[simp] theorem State.writeCtrl_platform (s : State) (v : Word) : (s.writeCtrl v).platform = s.platform := rfl
@[simp] theorem State.writeCtrl_cache (s : State) (v : Word) : (s.writeCtrl v).cache = s.cache := rfl
@[simp] theorem State.writeCtrl_unobserved (s : State) (v : Word) : (s.writeCtrl v).unobserved = s.unobserved := rfl
@[simp] theorem State.writeCtrl_inputs (s : State) (v : Word) : (s.writeCtrl v).inputs = s.inputs := rfl
@[simp] theorem State.writeCtrl_response (s : State) (v : Word) : (s.writeCtrl v).response = s.response := rfl
@[simp] theorem State.writeCtrl_draws (s : State) (v : Word) : (s.writeCtrl v).draws = s.draws := rfl

@[simp] theorem State.writeStatus_ie (s : State) (v : Word) : (s.writeStatus v).ie = s.ie := rfl
@[simp] theorem State.writeStatus_done (s : State) (v : Word) : (s.writeStatus v).done = (s.done && !v.getLsbD 1) := rfl
@[simp] theorem State.writeStatus_keyed (s : State) (v : Word) : (s.writeStatus v).keyed = s.keyed := rfl
@[simp] theorem State.writeStatus_ovr (s : State) (v : Word) : (s.writeStatus v).ovr = (s.ovr && !v.getLsbD 3) := rfl
@[simp] theorem State.writeStatus_err (s : State) (v : Word) : (s.writeStatus v).err = s.err := rfl
@[simp] theorem State.writeStatus_keylen (s : State) (v : Word) : (s.writeStatus v).keylen = s.keylen := rfl
@[simp] theorem State.writeStatus_src (s : State) (v : Word) : (s.writeStatus v).src = s.src := rfl
@[simp] theorem State.writeStatus_dst (s : State) (v : Word) : (s.writeStatus v).dst = s.dst := rfl
@[simp] theorem State.writeStatus_len (s : State) (v : Word) : (s.writeStatus v).len = s.len := rfl
@[simp] theorem State.writeStatus_blkL (s : State) (v : Word) : (s.writeStatus v).blkL = s.blkL := rfl
@[simp] theorem State.writeStatus_blkR (s : State) (v : Word) : (s.writeStatus v).blkR = s.blkR := rfl
@[simp] theorem State.writeStatus_key (s : State) (v : Word) : (s.writeStatus v).key = s.key := rfl
@[simp] theorem State.writeStatus_cipher (s : State) (v : Word) : (s.writeStatus v).cipher = s.cipher := rfl
@[simp] theorem State.writeStatus_seq (s : State) (v : Word) : (s.writeStatus v).seq = s.seq := rfl
@[simp] theorem State.writeStatus_mem (s : State) (v : Word) : (s.writeStatus v).mem = s.mem := rfl
@[simp] theorem State.writeStatus_platform (s : State) (v : Word) : (s.writeStatus v).platform = s.platform := rfl
@[simp] theorem State.writeStatus_cache (s : State) (v : Word) : (s.writeStatus v).cache = s.cache := rfl
@[simp] theorem State.writeStatus_unobserved (s : State) (v : Word) : (s.writeStatus v).unobserved = s.unobserved := rfl
@[simp] theorem State.writeStatus_inputs (s : State) (v : Word) : (s.writeStatus v).inputs = s.inputs := rfl
@[simp] theorem State.writeStatus_response (s : State) (v : Word) : (s.writeStatus v).response = s.response := rfl
@[simp] theorem State.writeStatus_draws (s : State) (v : Word) : (s.writeStatus v).draws = s.draws := rfl

@[simp] theorem State.scheduleFailed_ie (s : State) : (s.scheduleFailed).ie = s.ie := rfl
@[simp] theorem State.scheduleFailed_done (s : State) : (s.scheduleFailed).done = true := rfl
@[simp] theorem State.scheduleFailed_keyed (s : State) : (s.scheduleFailed).keyed = false := rfl
@[simp] theorem State.scheduleFailed_ovr (s : State) : (s.scheduleFailed).ovr = s.ovr := rfl
@[simp] theorem State.scheduleFailed_err (s : State) : (s.scheduleFailed).err = .invalidKey := rfl
@[simp] theorem State.scheduleFailed_keylen (s : State) : (s.scheduleFailed).keylen = s.keylen := rfl
@[simp] theorem State.scheduleFailed_src (s : State) : (s.scheduleFailed).src = s.src := rfl
@[simp] theorem State.scheduleFailed_dst (s : State) : (s.scheduleFailed).dst = s.dst := rfl
@[simp] theorem State.scheduleFailed_len (s : State) : (s.scheduleFailed).len = s.len := rfl
@[simp] theorem State.scheduleFailed_blkL (s : State) : (s.scheduleFailed).blkL = s.blkL := rfl
@[simp] theorem State.scheduleFailed_blkR (s : State) : (s.scheduleFailed).blkR = s.blkR := rfl
@[simp] theorem State.scheduleFailed_key (s : State) : (s.scheduleFailed).key = s.key := rfl
@[simp] theorem State.scheduleFailed_cipher (s : State) : (s.scheduleFailed).cipher = s.cipher := rfl
@[simp] theorem State.scheduleFailed_seq (s : State) : (s.scheduleFailed).seq = .idle := rfl
@[simp] theorem State.scheduleFailed_mem (s : State) : (s.scheduleFailed).mem = s.mem := rfl
@[simp] theorem State.scheduleFailed_platform (s : State) : (s.scheduleFailed).platform = s.platform := rfl
@[simp] theorem State.scheduleFailed_cache (s : State) : (s.scheduleFailed).cache = s.cache := rfl
@[simp] theorem State.scheduleFailed_unobserved (s : State) : (s.scheduleFailed).unobserved = s.unobserved := rfl
@[simp] theorem State.scheduleFailed_inputs (s : State) : (s.scheduleFailed).inputs = s.inputs := rfl
@[simp] theorem State.scheduleFailed_response (s : State) : (s.scheduleFailed).response = s.response := rfl
@[simp] theorem State.scheduleFailed_draws (s : State) : (s.scheduleFailed).draws = s.draws := rfl

@[simp] theorem State.scheduleDone_ie (s : State) (t : CipherState) : (s.scheduleDone t).ie = s.ie := rfl
@[simp] theorem State.scheduleDone_done (s : State) (t : CipherState) : (s.scheduleDone t).done = true := rfl
@[simp] theorem State.scheduleDone_keyed (s : State) (t : CipherState) : (s.scheduleDone t).keyed = true := rfl
@[simp] theorem State.scheduleDone_ovr (s : State) (t : CipherState) : (s.scheduleDone t).ovr = s.ovr := rfl
@[simp] theorem State.scheduleDone_err (s : State) (t : CipherState) : (s.scheduleDone t).err = .ok := rfl
@[simp] theorem State.scheduleDone_keylen (s : State) (t : CipherState) : (s.scheduleDone t).keylen = s.keylen := rfl
@[simp] theorem State.scheduleDone_src (s : State) (t : CipherState) : (s.scheduleDone t).src = s.src := rfl
@[simp] theorem State.scheduleDone_dst (s : State) (t : CipherState) : (s.scheduleDone t).dst = s.dst := rfl
@[simp] theorem State.scheduleDone_len (s : State) (t : CipherState) : (s.scheduleDone t).len = s.len := rfl
@[simp] theorem State.scheduleDone_blkL (s : State) (t : CipherState) : (s.scheduleDone t).blkL = s.blkL := rfl
@[simp] theorem State.scheduleDone_blkR (s : State) (t : CipherState) : (s.scheduleDone t).blkR = s.blkR := rfl
@[simp] theorem State.scheduleDone_key (s : State) (t : CipherState) : (s.scheduleDone t).key = s.key := rfl
@[simp] theorem State.scheduleDone_cipher (s : State) (t : CipherState) : (s.scheduleDone t).cipher = t := rfl
@[simp] theorem State.scheduleDone_seq (s : State) (t : CipherState) : (s.scheduleDone t).seq = .idle := rfl
@[simp] theorem State.scheduleDone_mem (s : State) (t : CipherState) : (s.scheduleDone t).mem = s.mem := rfl
@[simp] theorem State.scheduleDone_platform (s : State) (t : CipherState) : (s.scheduleDone t).platform = s.platform := rfl
@[simp] theorem State.scheduleDone_cache (s : State) (t : CipherState) : (s.scheduleDone t).cache = s.cache := rfl
@[simp] theorem State.scheduleDone_unobserved (s : State) (t : CipherState) : (s.scheduleDone t).unobserved = s.unobserved := rfl
@[simp] theorem State.scheduleDone_inputs (s : State) (t : CipherState) : (s.scheduleDone t).inputs = s.inputs := rfl
@[simp] theorem State.scheduleDone_response (s : State) (t : CipherState) : (s.scheduleDone t).response = s.response := rfl
@[simp] theorem State.scheduleDone_draws (s : State) (t : CipherState) : (s.scheduleDone t).draws = s.draws := rfl

@[simp] theorem State.blockDone_ie (s : State) (lr : Word × Word) : (s.blockDone lr).ie = s.ie := rfl
@[simp] theorem State.blockDone_done (s : State) (lr : Word × Word) : (s.blockDone lr).done = true := rfl
@[simp] theorem State.blockDone_keyed (s : State) (lr : Word × Word) : (s.blockDone lr).keyed = s.keyed := rfl
@[simp] theorem State.blockDone_ovr (s : State) (lr : Word × Word) : (s.blockDone lr).ovr = s.ovr := rfl
@[simp] theorem State.blockDone_err (s : State) (lr : Word × Word) : (s.blockDone lr).err = .ok := rfl
@[simp] theorem State.blockDone_keylen (s : State) (lr : Word × Word) : (s.blockDone lr).keylen = s.keylen := rfl
@[simp] theorem State.blockDone_src (s : State) (lr : Word × Word) : (s.blockDone lr).src = s.src := rfl
@[simp] theorem State.blockDone_dst (s : State) (lr : Word × Word) : (s.blockDone lr).dst = s.dst := rfl
@[simp] theorem State.blockDone_len (s : State) (lr : Word × Word) : (s.blockDone lr).len = s.len := rfl
@[simp] theorem State.blockDone_blkL (s : State) (lr : Word × Word) : (s.blockDone lr).blkL = lr.1 := rfl
@[simp] theorem State.blockDone_blkR (s : State) (lr : Word × Word) : (s.blockDone lr).blkR = lr.2 := rfl
@[simp] theorem State.blockDone_key (s : State) (lr : Word × Word) : (s.blockDone lr).key = s.key := rfl
@[simp] theorem State.blockDone_cipher (s : State) (lr : Word × Word) : (s.blockDone lr).cipher = s.cipher := rfl
@[simp] theorem State.blockDone_seq (s : State) (lr : Word × Word) : (s.blockDone lr).seq = .idle := rfl
@[simp] theorem State.blockDone_mem (s : State) (lr : Word × Word) : (s.blockDone lr).mem = s.mem := rfl
@[simp] theorem State.blockDone_platform (s : State) (lr : Word × Word) : (s.blockDone lr).platform = s.platform := rfl
@[simp] theorem State.blockDone_cache (s : State) (lr : Word × Word) : (s.blockDone lr).cache = s.cache := rfl
@[simp] theorem State.blockDone_unobserved (s : State) (lr : Word × Word) : (s.blockDone lr).unobserved = s.unobserved := rfl
@[simp] theorem State.blockDone_inputs (s : State) (lr : Word × Word) : (s.blockDone lr).inputs = s.inputs := rfl
@[simp] theorem State.blockDone_response (s : State) (lr : Word × Word) : (s.blockDone lr).response = s.response := rfl
@[simp] theorem State.blockDone_draws (s : State) (lr : Word × Word) : (s.blockDone lr).draws = s.draws := rfl

@[simp] theorem State.drawDest_ie (s : State) (o : Operands) (hit : Nat → Bool) : (s.drawDest o hit).ie = s.ie := rfl
@[simp] theorem State.drawDest_done (s : State) (o : Operands) (hit : Nat → Bool) : (s.drawDest o hit).done = s.done := rfl
@[simp] theorem State.drawDest_keyed (s : State) (o : Operands) (hit : Nat → Bool) : (s.drawDest o hit).keyed = s.keyed := rfl
@[simp] theorem State.drawDest_ovr (s : State) (o : Operands) (hit : Nat → Bool) : (s.drawDest o hit).ovr = s.ovr := rfl
@[simp] theorem State.drawDest_err (s : State) (o : Operands) (hit : Nat → Bool) : (s.drawDest o hit).err = s.err := rfl
@[simp] theorem State.drawDest_keylen (s : State) (o : Operands) (hit : Nat → Bool) : (s.drawDest o hit).keylen = s.keylen := rfl
@[simp] theorem State.drawDest_src (s : State) (o : Operands) (hit : Nat → Bool) : (s.drawDest o hit).src = s.src := rfl
@[simp] theorem State.drawDest_dst (s : State) (o : Operands) (hit : Nat → Bool) : (s.drawDest o hit).dst = s.dst := rfl
@[simp] theorem State.drawDest_len (s : State) (o : Operands) (hit : Nat → Bool) : (s.drawDest o hit).len = s.len := rfl
@[simp] theorem State.drawDest_blkL (s : State) (o : Operands) (hit : Nat → Bool) : (s.drawDest o hit).blkL = s.blkL := rfl
@[simp] theorem State.drawDest_blkR (s : State) (o : Operands) (hit : Nat → Bool) : (s.drawDest o hit).blkR = s.blkR := rfl
@[simp] theorem State.drawDest_key (s : State) (o : Operands) (hit : Nat → Bool) : (s.drawDest o hit).key = s.key := rfl
@[simp] theorem State.drawDest_cipher (s : State) (o : Operands) (hit : Nat → Bool) : (s.drawDest o hit).cipher = s.cipher := rfl
@[simp] theorem State.drawDest_seq (s : State) (o : Operands) (hit : Nat → Bool) : (s.drawDest o hit).seq = s.seq := rfl
@[simp] theorem State.drawDest_mem (s : State) (o : Operands) (hit : Nat → Bool) : (s.drawDest o hit).mem = drawRange o.dst.toNat o.len.toNat hit s.draws s.mem := rfl
@[simp] theorem State.drawDest_platform (s : State) (o : Operands) (hit : Nat → Bool) : (s.drawDest o hit).platform = s.platform := rfl
@[simp] theorem State.drawDest_cache (s : State) (o : Operands) (hit : Nat → Bool) : (s.drawDest o hit).cache = s.cache := rfl
@[simp] theorem State.drawDest_unobserved (s : State) (o : Operands) (hit : Nat → Bool) : (s.drawDest o hit).unobserved = s.unobserved := rfl
@[simp] theorem State.drawDest_inputs (s : State) (o : Operands) (hit : Nat → Bool) : (s.drawDest o hit).inputs = s.inputs := rfl
@[simp] theorem State.drawDest_response (s : State) (o : Operands) (hit : Nat → Bool) : (s.drawDest o hit).response = s.response := rfl
@[simp] theorem State.drawDest_draws (s : State) (o : Operands) (hit : Nat → Bool) : (s.drawDest o hit).draws = s.draws + o.len.toNat := rfl

@[simp] theorem State.bufferFailed_ie (s : State) (o : Operands) : (s.bufferFailed o).ie = s.ie := rfl
@[simp] theorem State.bufferFailed_done (s : State) (o : Operands) : (s.bufferFailed o).done = true := rfl
@[simp] theorem State.bufferFailed_keyed (s : State) (o : Operands) : (s.bufferFailed o).keyed = s.keyed := rfl
@[simp] theorem State.bufferFailed_ovr (s : State) (o : Operands) : (s.bufferFailed o).ovr = s.ovr := rfl
@[simp] theorem State.bufferFailed_err (s : State) (o : Operands) : (s.bufferFailed o).err = .busError := rfl
@[simp] theorem State.bufferFailed_keylen (s : State) (o : Operands) : (s.bufferFailed o).keylen = s.keylen := rfl
@[simp] theorem State.bufferFailed_src (s : State) (o : Operands) : (s.bufferFailed o).src = s.src := rfl
@[simp] theorem State.bufferFailed_dst (s : State) (o : Operands) : (s.bufferFailed o).dst = s.dst := rfl
@[simp] theorem State.bufferFailed_len (s : State) (o : Operands) : (s.bufferFailed o).len = s.len := rfl
@[simp] theorem State.bufferFailed_blkL (s : State) (o : Operands) : (s.bufferFailed o).blkL = s.blkL := rfl
@[simp] theorem State.bufferFailed_blkR (s : State) (o : Operands) : (s.bufferFailed o).blkR = s.blkR := rfl
@[simp] theorem State.bufferFailed_key (s : State) (o : Operands) : (s.bufferFailed o).key = s.key := rfl
@[simp] theorem State.bufferFailed_cipher (s : State) (o : Operands) : (s.bufferFailed o).cipher = s.cipher := rfl
@[simp] theorem State.bufferFailed_seq (s : State) (o : Operands) : (s.bufferFailed o).seq = .idle := rfl
@[simp] theorem State.bufferFailed_mem (s : State) (o : Operands) : (s.bufferFailed o).mem = drawRange o.dst.toNat o.len.toNat (fun _ => true) s.draws s.mem := rfl
@[simp] theorem State.bufferFailed_platform (s : State) (o : Operands) : (s.bufferFailed o).platform = s.platform := rfl
@[simp] theorem State.bufferFailed_cache (s : State) (o : Operands) : (s.bufferFailed o).cache = s.cache := rfl
@[simp] theorem State.bufferFailed_unobserved (s : State) (o : Operands) : (s.bufferFailed o).unobserved = s.owed o := rfl
@[simp] theorem State.bufferFailed_inputs (s : State) (o : Operands) : (s.bufferFailed o).inputs = s.inputs := rfl
@[simp] theorem State.bufferFailed_response (s : State) (o : Operands) : (s.bufferFailed o).response = s.response := rfl
@[simp] theorem State.bufferFailed_draws (s : State) (o : Operands) : (s.bufferFailed o).draws = s.draws + o.len.toNat := rfl


theorem State.hostStore_of_coherent {s : State} (h : s.platform.coherent = true) (a : Word) (b : Byte) :
    s.hostStore a b = (s.arrive a.toNat b).respond .written := by
  unfold State.hostStore
  rw [if_pos h]

theorem State.hostStore_of_cached {s : State} (h : s.platform.coherent = false) (a : Word) (b : Byte) :
    s.hostStore a b = (s.keep a.toNat b).respond .written := by
  unfold State.hostStore
  rw [if_neg (by rw [h]; exact Bool.false_ne_true)]

@[simp] theorem State.settleRaces_ie (s : State) (o : Operands) (raced : List Nat) :
    (s.settleRaces o raced).ie = s.ie := by
  unfold State.settleRaces
  split <;> rfl
@[simp] theorem State.settleRaces_done (s : State) (o : Operands) (raced : List Nat) :
    (s.settleRaces o raced).done = s.done := by
  unfold State.settleRaces
  split <;> rfl
@[simp] theorem State.settleRaces_keyed (s : State) (o : Operands) (raced : List Nat) :
    (s.settleRaces o raced).keyed = s.keyed := by
  unfold State.settleRaces
  split <;> rfl
@[simp] theorem State.settleRaces_ovr (s : State) (o : Operands) (raced : List Nat) :
    (s.settleRaces o raced).ovr = s.ovr := by
  unfold State.settleRaces
  split <;> rfl
@[simp] theorem State.settleRaces_err (s : State) (o : Operands) (raced : List Nat) :
    (s.settleRaces o raced).err = s.err := by
  unfold State.settleRaces
  split <;> rfl
@[simp] theorem State.settleRaces_keylen (s : State) (o : Operands) (raced : List Nat) :
    (s.settleRaces o raced).keylen = s.keylen := by
  unfold State.settleRaces
  split <;> rfl
@[simp] theorem State.settleRaces_src (s : State) (o : Operands) (raced : List Nat) :
    (s.settleRaces o raced).src = s.src := by
  unfold State.settleRaces
  split <;> rfl
@[simp] theorem State.settleRaces_dst (s : State) (o : Operands) (raced : List Nat) :
    (s.settleRaces o raced).dst = s.dst := by
  unfold State.settleRaces
  split <;> rfl
@[simp] theorem State.settleRaces_len (s : State) (o : Operands) (raced : List Nat) :
    (s.settleRaces o raced).len = s.len := by
  unfold State.settleRaces
  split <;> rfl
@[simp] theorem State.settleRaces_blkL (s : State) (o : Operands) (raced : List Nat) :
    (s.settleRaces o raced).blkL = s.blkL := by
  unfold State.settleRaces
  split <;> rfl
@[simp] theorem State.settleRaces_blkR (s : State) (o : Operands) (raced : List Nat) :
    (s.settleRaces o raced).blkR = s.blkR := by
  unfold State.settleRaces
  split <;> rfl
@[simp] theorem State.settleRaces_key (s : State) (o : Operands) (raced : List Nat) :
    (s.settleRaces o raced).key = s.key := by
  unfold State.settleRaces
  split <;> rfl
@[simp] theorem State.settleRaces_cipher (s : State) (o : Operands) (raced : List Nat) :
    (s.settleRaces o raced).cipher = s.cipher := by
  unfold State.settleRaces
  split <;> rfl
@[simp] theorem State.settleRaces_seq (s : State) (o : Operands) (raced : List Nat) :
    (s.settleRaces o raced).seq = s.seq := by
  unfold State.settleRaces
  split <;> rfl
@[simp] theorem State.settleRaces_platform (s : State) (o : Operands) (raced : List Nat) :
    (s.settleRaces o raced).platform = s.platform := by
  unfold State.settleRaces
  split <;> rfl
@[simp] theorem State.settleRaces_cache (s : State) (o : Operands) (raced : List Nat) :
    (s.settleRaces o raced).cache = s.cache := by
  unfold State.settleRaces
  split <;> rfl
@[simp] theorem State.settleRaces_unobserved (s : State) (o : Operands) (raced : List Nat) :
    (s.settleRaces o raced).unobserved = s.unobserved := by
  unfold State.settleRaces
  split <;> rfl
@[simp] theorem State.settleRaces_inputs (s : State) (o : Operands) (raced : List Nat) :
    (s.settleRaces o raced).inputs = s.inputs := by
  unfold State.settleRaces
  split <;> rfl
@[simp] theorem State.settleRaces_response (s : State) (o : Operands) (raced : List Nat) :
    (s.settleRaces o raced).response = s.response := by
  unfold State.settleRaces
  split <;> rfl

@[simp] theorem State.settleRaces_nil (s : State) (o : Operands) : s.settleRaces o [] = s := rfl

@[simp] theorem State.bufferDone_ie (s : State) (o : Operands) (raced : List Nat) (m : Memory) :
    (s.bufferDone o raced m).ie = s.ie := by
  simp [State.bufferDone]
@[simp] theorem State.bufferDone_done (s : State) (o : Operands) (raced : List Nat) (m : Memory) :
    (s.bufferDone o raced m).done = true := by
  simp [State.bufferDone]
@[simp] theorem State.bufferDone_keyed (s : State) (o : Operands) (raced : List Nat) (m : Memory) :
    (s.bufferDone o raced m).keyed = s.keyed := by
  simp [State.bufferDone]
@[simp] theorem State.bufferDone_ovr (s : State) (o : Operands) (raced : List Nat) (m : Memory) :
    (s.bufferDone o raced m).ovr = s.ovr := by
  simp [State.bufferDone]
@[simp] theorem State.bufferDone_err (s : State) (o : Operands) (raced : List Nat) (m : Memory) :
    (s.bufferDone o raced m).err = .ok := by
  simp [State.bufferDone]
@[simp] theorem State.bufferDone_keylen (s : State) (o : Operands) (raced : List Nat) (m : Memory) :
    (s.bufferDone o raced m).keylen = s.keylen := by
  simp [State.bufferDone]
@[simp] theorem State.bufferDone_src (s : State) (o : Operands) (raced : List Nat) (m : Memory) :
    (s.bufferDone o raced m).src = s.src := by
  simp [State.bufferDone]
@[simp] theorem State.bufferDone_dst (s : State) (o : Operands) (raced : List Nat) (m : Memory) :
    (s.bufferDone o raced m).dst = s.dst := by
  simp [State.bufferDone]
@[simp] theorem State.bufferDone_len (s : State) (o : Operands) (raced : List Nat) (m : Memory) :
    (s.bufferDone o raced m).len = s.len := by
  simp [State.bufferDone]
@[simp] theorem State.bufferDone_blkL (s : State) (o : Operands) (raced : List Nat) (m : Memory) :
    (s.bufferDone o raced m).blkL = s.blkL := by
  simp [State.bufferDone]
@[simp] theorem State.bufferDone_blkR (s : State) (o : Operands) (raced : List Nat) (m : Memory) :
    (s.bufferDone o raced m).blkR = s.blkR := by
  simp [State.bufferDone]
@[simp] theorem State.bufferDone_key (s : State) (o : Operands) (raced : List Nat) (m : Memory) :
    (s.bufferDone o raced m).key = s.key := by
  simp [State.bufferDone]
@[simp] theorem State.bufferDone_cipher (s : State) (o : Operands) (raced : List Nat) (m : Memory) :
    (s.bufferDone o raced m).cipher = s.cipher := by
  simp [State.bufferDone]
@[simp] theorem State.bufferDone_seq (s : State) (o : Operands) (raced : List Nat) (m : Memory) :
    (s.bufferDone o raced m).seq = .idle := by
  simp [State.bufferDone]
@[simp] theorem State.bufferDone_platform (s : State) (o : Operands) (raced : List Nat) (m : Memory) :
    (s.bufferDone o raced m).platform = s.platform := by
  simp [State.bufferDone]
@[simp] theorem State.bufferDone_cache (s : State) (o : Operands) (raced : List Nat) (m : Memory) :
    (s.bufferDone o raced m).cache = s.cache := by
  simp [State.bufferDone]
@[simp] theorem State.bufferDone_unobserved (s : State) (o : Operands) (raced : List Nat) (m : Memory) :
    (s.bufferDone o raced m).unobserved = s.owed o := by
  simp [State.bufferDone]
@[simp] theorem State.bufferDone_inputs (s : State) (o : Operands) (raced : List Nat) (m : Memory) :
    (s.bufferDone o raced m).inputs = s.inputs := by
  simp [State.bufferDone]
@[simp] theorem State.bufferDone_response (s : State) (o : Operands) (raced : List Nat) (m : Memory) :
    (s.bufferDone o raced m).response = s.response := by
  simp [State.bufferDone]

@[simp] theorem State.busy_idle (s : State) (h : s.seq = .idle) : s.busy = false := by
  simp [State.busy, h]

@[simp] theorem State.busy_busy (s : State) (r : Run) (h : s.seq = .busy r) : s.busy = true := by
  simp [State.busy, h]

theorem State.busy_iff (s : State) : s.busy = true ↔ ∃ r, s.seq = .busy r := by
  cases h : s.seq <;> simp [State.busy, h]

theorem State.operands_busy {s : State} {r : Run} (h : s.seq = .busy r) : s.operands = r.ops := by
  simp [State.operands, h]

theorem State.raced_busy {s : State} {r : Run} (h : s.seq = .busy r) : s.raced = r.raced := by
  simp [State.raced, h]

@[simp] theorem State.complete_busy (s : State) (code : ErrCode) : (s.complete code).busy = false := rfl
@[simp] theorem State.scheduleFailed_busy (s : State) : s.scheduleFailed.busy = false := rfl
@[simp] theorem State.scheduleDone_busy (s : State) (t : CipherState) : (s.scheduleDone t).busy = false := rfl
@[simp] theorem State.blockDone_busy (s : State) (lr : Word × Word) : (s.blockDone lr).busy = false := rfl
@[simp] theorem State.bufferFailed_busy (s : State) (o : Operands) : (s.bufferFailed o).busy = false := rfl
@[simp] theorem State.bufferDone_busy (s : State) (o : Operands) (raced : List Nat) (m : Memory) :
    (s.bufferDone o raced m).busy = false := rfl
@[simp] theorem State.illegalCommand_busy (s : State) : s.illegalCommand.busy = false := rfl
@[simp] theorem State.goTo_busy (s : State) (r : Run) (p : Progress) : (s.goTo r p).busy = true := rfl
@[simp] theorem State.accept_busy (s : State) (w : Word) : (s.accept w).busy = true := rfl
@[simp] theorem State.resetInput_busy (s : State) : s.resetInput.busy = false := rfl

end Sys2Proof.Machine
end

