-- ==== Sys2Proof/Laws/Race.lean ====
section
/-! SUPPORT. Laws of races: what a store can do to the running command, and to the destinations of the commands whose completion
is not observed (20_memory R93, 70_reset_and_hazards R252). -/

namespace Sys2Proof.Machine

open Sys2Proof.Safety

theorem mem_affected {o : Operands} {a x : Nat} :
    x ∈ o.affected a ↔ o.inDest x = true ∧ racedOffset o [a] (x - o.dst.toNat) = true := by
  simp only [Operands.affected, List.mem_map, List.mem_filter, List.mem_range, Operands.inDest, inRange, Bool.and_eq_true,
    decide_eq_true_eq]
  constructor
  · rintro ⟨off, ⟨h1, h2⟩, rfl⟩
    rw [Nat.add_sub_cancel_left]
    exact ⟨⟨by omega, by omega⟩, h2⟩
  · rintro ⟨⟨h1, h2⟩, h3⟩
    exact ⟨x - o.dst.toNat, ⟨by omega, h3⟩, by omega⟩

@[simp] theorem noteStores_idle (written : List Nat) : Sequencer.noteStores .idle written = .idle := by
  induction written with
  | nil => rfl
  | cons a rest ih => exact (congrArg (Sequencer.noteStore · a) ih).trans rfl

/-- Everything writes that are not its own can do to a running command: those that fall into a buffer command's ranges are
remembered. -/
theorem noteStores_busy (r : Run) (written : List Nat) :
    ∃ l, Sequencer.noteStores (.busy r) written = .busy { r with raced := l ++ r.raced } ∧
      (isBuffer r.word = true → ∀ x ∈ written, r.ops.inSource x = true ∨ r.ops.inDest x = true → x ∈ l) := by
  induction written with
  | nil => exact ⟨[], rfl, fun _ x hx => by cases hx⟩
  | cons a rest ih =>
    obtain ⟨l, h, hl⟩ := ih
    have step : Sequencer.noteStores (.busy r) (a :: rest) =
        Sequencer.noteStore (.busy { r with raced := l ++ r.raced }) a := congrArg (Sequencer.noteStore · a) h
    rw [step]
    unfold Sequencer.noteStore
    dsimp only
    split
    · refine ⟨a :: l, rfl, fun hb x hx hr => ?_⟩
      rcases List.mem_cons.mp hx with rfl | hx
      · exact List.mem_cons_self
      · exact List.mem_cons_of_mem _ (hl hb x hx hr)
    · rename_i hn
      refine ⟨l, rfl, fun hb x hx hr => ?_⟩
      rcases List.mem_cons.mp hx with rfl | hx
      · exact absurd (by simpa [hb] using hr) hn
      · exact hl hb x hx hr

/-- What is noted of the running command when the addresses `hit` are written by another: nothing but races, and every hit in a
buffer command's ranges. -/
def Noted (hit : Nat → Prop) (q q' : Sequencer) : Prop :=
  (q = .idle → q' = .idle) ∧
    ∀ r, q = .busy r → ∃ l, q' = .busy { r with raced := l ++ r.raced } ∧
      (isBuffer r.word = true → ∀ x, hit x → r.ops.inSource x = true ∨ r.ops.inDest x = true → x ∈ l)

theorem Noted.refl {hit : Nat → Prop} (h : ∀ x, ¬ hit x) (q : Sequencer) : Noted hit q q :=
  ⟨fun hq => hq, fun _ hr => ⟨[], hr, fun _ x hx => absurd hx (h x)⟩⟩

theorem Noted.mono {hit hit' : Nat → Prop} {q q' : Sequencer} (h : Noted hit q q') (hh : ∀ x, hit' x → hit x) :
    Noted hit' q q' := by
  refine ⟨h.1, fun r hr => ?_⟩
  obtain ⟨l, e, hl⟩ := h.2 r hr
  exact ⟨l, e, fun hb x hx => hl hb x (hh x hx)⟩

theorem Noted.trans {hit hit' hit'' : Nat → Prop} {q q' q'' : Sequencer} (h : Noted hit q q') (h' : Noted hit' q' q'')
    (hh : ∀ x, hit'' x → hit x ∨ hit' x) : Noted hit'' q q'' := by
  refine ⟨fun hq => h'.1 (h.1 hq), fun r hr => ?_⟩
  obtain ⟨l, e, hl⟩ := h.2 r hr
  obtain ⟨l', e', hl'⟩ := h'.2 _ e
  refine ⟨l' ++ l, by rw [e', List.append_assoc], fun hb x hx hr => ?_⟩
  rcases hh x hx with hx | hx
  · exact List.mem_append_right _ (hl hb x hx hr)
  · exact List.mem_append_left _ (hl' hb x hx hr)

theorem noted_noteStores (q : Sequencer) (written : List Nat) : Noted (· ∈ written) q (q.noteStores written) := by
  refine ⟨fun hq => by rw [hq]; exact noteStores_idle _, fun r hr => ?_⟩
  rw [hr]
  exact noteStores_busy r written

theorem noted_noteStore (q : Sequencer) (a : Nat) : Noted (· = a) q (q.noteStore a) := by
  refine ⟨fun hq => by rw [hq]; rfl, fun r hr => ?_⟩
  rw [hr]
  obtain ⟨l, e, hl⟩ := noteStores_busy r [a]
  exact ⟨l, e, fun hb x hx => hl hb x (List.mem_singleton.mpr hx)⟩

/-- A state whose memory, count of draws and record of races may differ from those of `s`; bytes outside `spoiled` do not. -/
def SpoiledFrom (spoiled : Nat → Prop) (s t : State) : Prop :=
  ∃ m n q, t = { s with mem := m, draws := n, seq := q } ∧
    (Memory.wf s.mem → Memory.wf m ∧ (∀ x, ¬ spoiled x → m.read x = s.mem.read x) ∧
      Noted (fun x => m.read x ≠ s.mem.read x) s.seq q)

/-- Everything the race of a store with one completed command can do. -/
theorem spoil_cases (s : State) (d : Completed) (a : Nat) : SpoiledFrom (Spoils [d] a) s (s.spoil d.ops a) := by
  unfold State.spoil
  split
  · refine ⟨_, _, _, rfl, fun hw => ⟨drawDest_wf hw _ _, fun x hx => read_drawDest hw _ _ _ ?_, ?_⟩⟩
    · rw [← Bool.not_eq_true, ← Bool.not_eq_true, ← Classical.not_and_iff_not_or_not]
      exact fun h => hx ⟨d, List.mem_singleton.mpr rfl, h⟩
    · refine (noted_noteStores s.seq (d.ops.affected a)).mono fun x hx => ?_
      rw [mem_affected]
      by_contra hn
      refine hx (read_drawDest hw _ _ _ ?_)
      rwa [← Bool.not_eq_true, ← Bool.not_eq_true, ← Classical.not_and_iff_not_or_not]
  · exact ⟨s.mem, s.draws, s.seq, rfl, fun hw => ⟨hw, fun _ _ => rfl, Noted.refl (fun _ hx => hx rfl) _⟩⟩

/-- Everything the races of a store with completed commands can do. -/
theorem spoilAll_cases (s : State) (a : Nat) (owed : List Completed) :
    SpoiledFrom (Spoils owed a) s (s.spoilAll a owed) := by
  induction owed generalizing s with
  | nil => exact ⟨s.mem, s.draws, s.seq, rfl, fun hw => ⟨hw, fun _ _ => rfl, Noted.refl (fun _ hx => hx rfl) _⟩⟩
  | cons d rest ih =>
    obtain ⟨m, n, q, e, h⟩ := spoil_cases s d a
    obtain ⟨m', n', q', e', h'⟩ := ih (s.spoil d.ops a)
    refine ⟨m', n', q', ?_, fun hw => ?_⟩
    · show State.spoilAll (s.spoil d.ops a) a rest = _
      rw [e', e]
    · obtain ⟨w1, r1, n1⟩ := h hw
      rw [e] at h'
      obtain ⟨w2, r2, n2⟩ := h' w1
      refine ⟨w2, fun x hx => ?_, n1.trans n2 fun x hx => ?_⟩
      rotate_left
      · by_cases hm : m.read x = s.mem.read x
        · exact .inr (by rwa [← hm] at hx)
        · exact .inl hm
      · rw [r2 x fun ⟨c, hc, hs⟩ => hx ⟨c, List.mem_cons_of_mem _ hc, hs⟩]
        exact r1 x fun ⟨c, hc, hs⟩ => hx ⟨c, List.mem_cons.mpr (.inl (List.mem_singleton.mp hc)), hs⟩

/-- Everything the arrival of a byte in memory can do: the byte is stored, and is the old value of later races; bytes it races with
are unspecified; the running command remembers every change in its ranges; nothing else changes. -/
theorem arrive_cases (s : State) (a : Nat) (b : Byte) :
    ∃ m n q, s.arrive a b =
        { s with
          mem := m
          draws := n
          seq := q
          unobserved := s.unobserved.map (fun d => { d with before := d.before.write a b }) } ∧
      (Memory.wf s.mem → Memory.wf m ∧
        (∀ x, ¬ Spoils s.unobserved a x → m.read x = if x = a then b else s.mem.read x) ∧
        Noted (fun x => x = a ∨ m.read x ≠ s.mem.read x) s.seq q) := by
  have spoils (x : Nat) : Spoils (s.unobserved.map (fun d => { d with before := d.before.write a b })) a x ↔
      Spoils s.unobserved a x := by
    constructor
    · rintro ⟨c, hc, h⟩
      obtain ⟨d, hd, rfl⟩ := List.mem_map.mp hc
      exact ⟨d, hd, h⟩
    · rintro ⟨d, hd, h⟩
      exact ⟨_, List.mem_map.mpr ⟨d, hd, rfl⟩, h⟩
  unfold State.arrive State.storeRaces
  obtain ⟨m, n, q, e, h⟩ := spoilAll_cases
    { s with
      mem := s.mem.write a b
      unobserved := s.unobserved.map (fun d => { d with before := d.before.write a b })
      seq := s.seq.noteStore a } a (s.unobserved.map (fun d => { d with before := d.before.write a b }))
  refine ⟨m, n, q, e, fun hw => ?_⟩
  obtain ⟨w, r, nt⟩ := h (Memory.write_wf hw a b)
  refine ⟨w, fun x hx => ?_, (noted_noteStore _ a).trans nt fun x hx => ?_⟩
  · rw [r x (by rwa [spoils])]
    exact Memory.read_write hw a b x
  · by_cases ha : x = a
    · exact .inl ha
    · refine .inr ?_
      rw [Memory.read_write hw, if_neg ha]
      exact hx.resolve_left ha

/-- Everything a store into the host's copy can do: the copy is written; bytes it races with are unspecified; the running command
remembers every change in its ranges; nothing else changes. -/
theorem keep_cases (s : State) (a : Nat) (b : Byte) :
    ∃ m n q, s.keep a b = { s with mem := m, draws := n, seq := q, cache := s.cache.put a b } ∧
      (Memory.wf s.mem → Memory.wf m ∧ (∀ x, ¬ Spoils s.unobserved a x → m.read x = s.mem.read x) ∧
        Noted (fun x => x = a ∨ m.read x ≠ s.mem.read x) s.seq q) := by
  unfold State.keep State.storeRaces
  obtain ⟨m, n, q, e, h⟩ := spoilAll_cases { s with cache := s.cache.put a b, seq := s.seq.noteStore a } a s.unobserved
  refine ⟨m, n, q, e, fun hw => ?_⟩
  obtain ⟨w, r, nt⟩ := h hw
  exact ⟨w, r, (noted_noteStore _ a).trans nt fun x hx => hx⟩

/-- With every completion observed, the arrival of a byte writes it and notes it. -/
theorem arrive_of_observed {s : State} (h : s.unobserved = []) (a : Nat) (b : Byte) :
    s.arrive a b = { s with mem := s.mem.write a b, seq := s.seq.noteStore a } := by
  simp [State.arrive, State.storeRaces, State.spoilAll, h]

/-- With every completion observed, a store into the host's copy writes it and is noted. -/
theorem keep_of_observed {s : State} (h : s.unobserved = []) (a : Nat) (b : Byte) :
    s.keep a b = { s with cache := s.cache.put a b, seq := s.seq.noteStore a } := by
  simp [State.keep, State.storeRaces, State.spoilAll, h]

/-- Everything a host store can do. -/
theorem hostStore_cases (s : State) (a : Word) (b : Byte) :
    (s.platform.coherent = true ∧ s.hostStore a b = (s.arrive a.toNat b).respond .written) ∨
      (s.platform.coherent = false ∧ s.hostStore a b = (s.keep a.toNat b).respond .written) := by
  cases h : s.platform.coherent with
  | true => exact .inl ⟨rfl, State.hostStore_of_coherent h a b⟩
  | false => exact .inr ⟨rfl, State.hostStore_of_cached h a b⟩

end Sys2Proof.Machine
end

