-- ==== Sys2Proof/Laws/Safety.lean ====
section
/-! SUPPORT. How the machine's invariant is established (in an idle state, by acceptance, by a move of host caches), and runs of
several steps. -/

namespace Sys2Proof.Safety

open Sys2Proof.Machine

/-- In an idle state with empty host caches and every completion observed, only memory, the base address and the meaning of KEYED are left to show. -/
theorem inv_of_idle {s : State} (hm : Memory.wf s.mem) (hb : s.platform.base % 256 = 0) (hc : s.cache = [])
    (hu : s.unobserved = []) (hq : s.seq = .idle)
    (hk : s.keyed = true → ∃ key len, 0 < len ∧ s.cipher = scheduleTables key len) : Inv s where
  memory := hm
  base := hb
  copies := hc ▸ List.Pairwise.nil
  coherent _ := hc
  owed d hd := by rw [hu] at hd; cases hd
  flags r hr := by rw [hq] at hr; cases hr
  latched r hr := by rw [hq] at hr; cases hr
  fits r hr := by rw [hq] at hr; cases hr
  unkeyed r hr := by rw [hq] at hr; cases hr
  tables r hr := by rw [hq] at hr; cases hr
  scheduled := hk

/-- Acceptance keeps the invariant. -/
theorem Inv.accept {s : State} (h : Inv s) (w : Word) : Inv (s.accept w) where
  memory := h.memory
  base := h.base
  copies := h.copies
  coherent := h.coherent
  owed := h.owed
  flags _ _ := ⟨rfl, rfl⟩
  latched r hr := by cases hr; rfl
  fits r hr := by
    cases hr
    unfold RunFits
    split <;> trivial
  unkeyed r hr hs := by
    cases hr
    simp only [State.accept_keyed]
    rw [hs]
    exact Bool.and_false _
  tables r hr := by cases hr; trivial
  scheduled hk := by
    rw [State.accept_keyed, Bool.and_eq_true] at hk
    exact h.scheduled hk.1

/-- The invariant says nothing of the events still to come. -/
theorem Inv.withInputs {s : State} (h : Inv s) (inputs : List Event) : Inv { s with inputs := inputs } where
  memory := h.memory
  base := h.base
  copies := h.copies
  coherent := h.coherent
  owed := h.owed
  flags := h.flags
  latched := h.latched
  fits := h.fits
  unkeyed := h.unkeyed
  tables := h.tables
  scheduled := h.scheduled

/-- A fill or an invalidation keeps the invariant. -/
theorem Inv.withCache {s : State} (h : Inv s) {c : Cache} (hc : s.platform.coherent = false) (hw : Cache.wf c) :
    Inv { s with cache := c } where
  memory := h.memory
  base := h.base
  copies := hw
  coherent hp := absurd (hc.symm.trans hp) Bool.false_ne_true
  owed := h.owed
  flags := h.flags
  latched := h.latched
  fits := h.fits
  unkeyed := h.unkeyed
  tables := h.tables
  scheduled := h.scheduled

/-- A step of several is the first one and then the rest. -/
theorem stepAll_of_next {s t : State} (h : step s = .next t) (n : Nat) : stepAll (n + 1) s = stepAll n t := by
  rw [stepAll, h]

end Sys2Proof.Safety
end

