-- ==== Sys2Proof/Laws/Step.lean ====
section
/-! SUPPORT. Everything one step of the machine can do, by the event it handles. -/

namespace Sys2Proof.Machine

theorem State.busy_eq_true {s : State} : s.busy = true ↔ ∃ r, s.seq = .busy r := by
  unfold State.busy
  split <;> simp_all

theorem State.busy_eq_false {s : State} : s.busy = false ↔ s.seq = .idle := by
  unfold State.busy
  split <;> simp_all

theorem tick_of_idle {s : State} (pick : Nat) (h : s.busy = false) : s.tick pick = s := by
  unfold State.tick
  rw [State.busy_eq_false.mp h]

/-- Everything one step can do. (`arrive_cases` and `keep_cases` say what a store can do.) `s` is the state without the event that is handled. -/
inductive StepCase (inputs : List Event) (s t : State) : Prop where
  /-- The host bus answers, and nothing else changes. -/
  | answered (x : Response) (h : t = s.respond x)
  /-- A STATUS read answers, and completions are observed. -/
  | observed (x : Response) (hd : s.done = true ∨ s.busy = false) (h : t = { s with response := x, unobserved := [] })
  /-- An access outside the window has no effect. -/
  | nothing (h : t = s)
  /-- A register is written. -/
  | register (r : Reg) (v : Word) (rest : List Event)
      (hi : inputs = .csrWrite (s.platform.base + regOffset r) 4 v :: rest)
      (h : t = (s.writeReg r v).respond .written)
  /-- A host store. -/
  | store (a : Word) (b : Byte) (rest : List Event) (hi : inputs = .memWrite a b :: rest) (h : t = s.hostStore a b)
  /-- Host caches take or drop a copy, and nothing else changes. -/
  | copies (c : Cache) (hc : s.platform.coherent = false) (hw : Cache.wf s.cache → Cache.wf c)
      (h : t = { s with cache := c })
  /-- A host's copy of a byte goes to memory. -/
  | clean (a : Word) (b : Byte) (rest : List Event) (hi : inputs = .cacheClean a :: rest) (hc : s.platform.coherent = false)
      (hb : s.cache.find a.toNat = some b) (h : t = s.arrive a.toNat b)
  /-- The reset input. -/
  | reset (rest : List Event) (hi : inputs = .reset :: rest) (h : t = s.resetInput)
  /-- One micro-step of a running command. -/
  | tick (r : Run) (pick : Nat) (hq : s.seq = .busy r) (h : t = s.tick pick)
  /-- A command runs to its completion. -/
  | run (r : Run) (i : Instr) (hq : s.seq = .busy r) (hd : decode r.word = .ok i) (h : exec i s = .next t)
  /-- A word that decodes as ILLEGAL completes. -/
  | illegal (r : Run) (e : DecodeError) (hq : s.seq = .busy r) (hd : decode r.word = .error e) (h : t = s.illegalCommand)

theorem engineRun_cases {s t : State} (inputs : List Event) (h : engineRun s = .next t) : StepCase inputs s t := by
  unfold engineRun at h
  split at h
  · cases h
    exact .nothing rfl
  · rename_i r hq
    split at h
    · rename_i i hd
      exact .run r i hq hd h
    · rename_i e hd
      cases h
      exact .illegal r e hq hd rfl

theorem step_cases {s t : State} (h : step s = .next t) :
    (s.inputs = [] ∧ StepCase s.inputs s t) ∨
      ∃ e rest, s.inputs = e :: rest ∧ StepCase s.inputs { s with inputs := rest } t := by
  cases hi : s.inputs with
  | nil =>
    rw [step_of_no_event hi] at h
    exact .inl ⟨rfl, engineRun_cases _ h⟩
  | cons e rest =>
    rw [step_of_event hi] at h
    refine .inr ⟨e, rest, rfl, ?_⟩
    cases e with
    | csrRead addr size =>
      cases h
      rcases csrRead_eq { s with inputs := rest } addr size with h | ⟨x, h⟩ | ⟨hd, x, h⟩
      · exact .nothing h
      · exact .answered x h
      · exact .observed x hd h
    | csrWrite addr size v =>
      cases h
      rcases csrWrite_cases { s with inputs := rest } addr size v with h | ⟨x, h⟩ | ⟨r, rfl, rfl, h⟩
      · exact .nothing h
      · exact .answered x h
      · exact .register r v rest rfl h
    | memRead a pick =>
      cases h
      obtain ⟨b, h⟩ := hostLoad_eq { s with inputs := rest } a pick
      exact .answered _ h
    | memWrite a b =>
      cases h
      exact .store a b rest rfl rfl
    | cacheFill a pick =>
      cases h
      rcases cacheFill_cases { s with inputs := rest } a pick with h | ⟨hc, -, h⟩
      · exact .nothing h
      · exact .copies _ hc (fun hw => Cache.put_wf hw _ _) h
    | cacheClean a =>
      cases h
      rcases cacheClean_cases { s with inputs := rest } a with ⟨-, h⟩ | ⟨b, hc, hb, h⟩
      · exact .nothing h
      · exact .clean a b rest rfl hc hb h
    | cacheInvalidate a =>
      cases h
      rcases cacheInvalidate_cases { s with inputs := rest } a with ⟨-, h⟩ | ⟨hc, h⟩
      · exact .nothing h
      · exact .copies _ hc (fun hw => Cache.drop_wf hw _) h
    | reset =>
      cases h
      exact .reset rest rfl rfl
    | tick pick =>
      cases h
      cases hq : s.busy with
      | false => exact .nothing (tick_of_idle pick hq)
      | true =>
        obtain ⟨r, hr⟩ := State.busy_eq_true.mp hq
        exact .tick r pick hr rfl
    | finish => exact engineRun_cases _ h

end Sys2Proof.Machine
end

