-- ==== Sys2Proof/Tests/Slice0.lean ====
section
/-! SUPPORT. Tests: words written out from 30_encoding R110 to R115, ill-formed words and accesses, and single steps whose
expected values are those of spec/95_test_vectors.md (named at each test). -/

open Sys2Proof Sys2Proof.Machine Sys2Proof.Safety

namespace Sys2Proof.Tests

/-- The state of a next outcome. -/
def after (o : Host.Outcome State Fault Refusal) : State :=
  match o with
  | .next t => t
  | .fault f => nomatch f
  | .refused _ => State.reset

/-- A keyed machine over the ROM tables (95 section 2.3: function level, not reachable as a command). -/
def keyedRom : State := { State.reset with cipher := romCipher, keyed := true }

/-! ## Encoding (V-DEC) -/

/-- OP = 0001, RSV = 0 (30_encoding R114). -/
theorem test_decode_schedule : decode 0b00000000000000000000000000000001#32 = .ok .schedule := by decide
/-- OP = 0010. -/
theorem test_decode_encBlock : decode 0b00000000000000000000000000000010#32 = .ok .encBlock := by decide
/-- OP = 0011. -/
theorem test_decode_decBlock : decode 0b00000000000000000000000000000011#32 = .ok .decBlock := by decide
/-- OP = 0100. -/
theorem test_decode_encBuf : decode 0b00000000000000000000000000000100#32 = .ok .encBuf := by decide
/-- OP = 0101. -/
theorem test_decode_decBuf : decode 0b00000000000000000000000000000101#32 = .ok .decBuf := by decide
/-- The undefined OP values next to the defined ones, and the last one. -/
theorem test_decode_illegal_op : decode 0x0#32 = .error .illegalOp ∧ decode 0x6#32 = .error .illegalOp ∧
    decode 0xF#32 = .error .illegalOp := by decide
/-- A reserved bit set: the lowest, the one beside a defined OP, the highest. -/
theorem test_decode_reserved_bits : decode 0x10#32 = .error .reservedBits ∧ decode 0x14#32 = .error .reservedBits ∧
    decode 0x80000001#32 = .error .reservedBits := by decide
/-- A table row's word, and one with a bit above its row's width. -/
theorem test_decodeTableWord : decodeTableWord 32 5 = some .decBuf ∧ decodeTableWord 32 (2 ^ 32 + 2) = some .encBlock ∧
    decodeTableWord 32 6 = none := by decide

/-! ## Ill-formed words and accesses, one for each check of WellFormed -/

theorem test_rsv_refused : WellFormed.rsvClear 0x10#32 = false ∧ WellFormed.commandWord 0x11#32 = false := by decide
theorem test_op_refused : WellFormed.opDefined 0x0#32 = false ∧ WellFormed.opDefined 0x6#32 = false ∧
    WellFormed.commandWord 0xF#32 = false := by decide
/-- Not 32 bits wide, not aligned, past the window (30_encoding R118). -/
theorem test_access_refused : WellFormed.csrAccess 0x010 1 = false ∧ WellFormed.csrAccess 0x012 4 = false ∧
    WellFormed.csrAccess 0x100 4 = false ∧ WellFormed.csrAccess 0x0FC 4 = true := by decide

/-! ## F, the block transform and the key schedule (V-F, V-BLK, V-KS) -/

/-- V-F-2 and V-F-6. -/
theorem test_feistel : feistel romCipher 0xFFFFFFFF#32 = 0x452C2867#32 ∧ feistel romCipher 0xDEADBEEF#32 = 0x5713DC03#32 := by
  decide
/-- V-KS-3: words 0 and 1 of the key 01 02 03 04 05. -/
theorem test_key_words :
    keyWord (State.reset.key.set 0 0x01020304#32 |>.set 1 0x05000000#32) 5 0 = 0x01020304#32 ∧
      keyWord (State.reset.key.set 0 0x01020304#32 |>.set 1 0x05000000#32) 5 1 = 0x05010203#32 := by decide
/-- V-KS-2: P[0], P[1] and P[17] after step 3, key 01 23 45 67 89 AB CD EF. -/
theorem test_keyed_tables :
    let t := keyedTables (State.reset.key.set 0 0x01234567#32 |>.set 1 0x89ABCDEF#32) 8
    t.pAt 0 = 0x251C2FEF#32 ∧ t.pAt 1 = 0x0C08C53C#32 ∧ t.pAt 17 = 0x00D236F4#32 := by decide
/-- V-KS-1: the first encryption of step 4 replaces P[0] and P[1]. -/
theorem test_first_pair :
    (chain State.reset.key 8 1).1.pAt 0 = 0x706D9FCC#32 ∧ (chain State.reset.key 8 1).1.pAt 1 = 0x1792D23A#32 := by decide
/-- 40_key_schedule R138: encryption 9 writes S[0][0] and S[0][1], and the last one S[3][254] and S[3][255]. -/
theorem test_write_pair :
    (writePair 9 (5#32, 6#32) romCipher).sAt 0 1#8 = 6#32 ∧ (writePair 520 (5#32, 6#32) romCipher).sAt 3 254#8 = 5#32 := by
  decide

/-! ## The commands, one step each -/

/-- V-KS-7: KEYLEN = 0xFFFFFFFF right after reset. -/
theorem test_schedule_negative_length :
    (after (exec .schedule { State.reset with keylen := 0xFFFFFFFF#32 })).statusWord = 0x102#32 := by decide
/-- V-KS-7: KEYLEN = 0x7FFFFFFF is accepted: KEYED, DONE and OK. -/
theorem test_schedule_longest_length :
    (after (exec .schedule { State.reset with keylen := 0x7FFFFFFF#32 })).statusWord = 0x6#32 := by decide
/-- V-BLK-2: the zero block over the ROM tables. -/
theorem test_encBlock :
    let t := after (exec .encBlock keyedRom)
    (t.blkL, t.blkR) = (0x706D9FCC#32, 0x1792D23A#32) ∧ t.statusWord = 0x6#32 := by decide
/-- V-BLK-4: NOT_KEYED right after reset; BLK_L keeps what the host wrote. -/
theorem test_encBlock_not_keyed :
    let t := after (exec .encBlock { State.reset with blkL := 7#32 })
    t.statusWord = 0x202#32 ∧ t.blkL = 7#32 := by decide
/-- V-BLK-2: DecryptBlock restores (01234567, 89ABCDEF). -/
theorem test_decBlock :
    let t := after (exec .decBlock { keyedRom with blkL := 0x738E078D#32, blkR := 0x4C8703A6#32 })
    (t.blkL, t.blkR) = (0x01234567#32, 0x89ABCDEF#32) := by decide
/-- V-BLK-4. -/
theorem test_decBlock_not_keyed : (after (exec .decBlock State.reset)).statusWord = 0x202#32 := by decide
/-- V-BLK-2 and V-BUF-2's shape: 11 bytes at an unaligned address, one block and three copied trailing bytes. -/
theorem test_encBuf :
    (after (exec .encBuf { keyedRom with
        src := 0x1003#32, dst := 0x2001#32, len := 11#32, mem := [(0x100B, 0x10#8), (0x100C, 0x11#8), (0x100D, 0x12#8)] })).mem
      = [(0x100B, 0x10#8), (0x100C, 0x11#8), (0x100D, 0x12#8), (0x2001, 0x70#8), (0x2002, 0x6D#8), (0x2003, 0x9F#8),
          (0x2004, 0xCC#8), (0x2005, 0x17#8), (0x2006, 0x92#8), (0x2007, 0xD2#8), (0x2008, 0x3A#8), (0x2009, 0x10#8),
          (0x200A, 0x11#8), (0x200B, 0x12#8)] := by decide
/-- V-BUF-8: RANGE, not OVERLAP. -/
theorem test_encBuf_range_first :
    (after (exec .encBuf { keyedRom with src := 0xFFFFFFF9#32, dst := 0xFFFFFFFA#32, len := 8#32 })).statusWord = 0x406#32 := by
  decide
/-- V-BLK-2 and V-BUF-6: in place at the top of memory, the ciphertext of the zero block; the emptied cells leave the list. -/
theorem test_decBuf_top_of_memory :
    let t := after (exec .decBuf { keyedRom with
      src := 0xFFFFFFF8#32, dst := 0xFFFFFFF8#32, len := 8#32,
      mem := [(0xFFFFFFF8, 0x70#8), (0xFFFFFFF9, 0x6D#8), (0xFFFFFFFA, 0x9F#8), (0xFFFFFFFB, 0xCC#8), (0xFFFFFFFC, 0x17#8),
        (0xFFFFFFFD, 0x92#8), (0xFFFFFFFE, 0xD2#8), (0xFFFFFFFF, 0x3A#8)] })
    t.mem = [] ∧ t.statusWord = 0x6#32 := by decide
/-- V-BUF-7: one shared byte, 0x100F. -/
theorem test_decBuf_overlap :
    (after (exec .decBuf { keyedRom with src := 0x1000#32, dst := 0x100F#32, len := 16#32 })).statusWord = 0x506#32 := by decide

/-! ## The CSR port and the step -/

/-- V-CSR-2: WR STATUS, 0x0000000A from 0x0000000E leaves 0x00000004. -/
theorem test_status_write_one_to_clear :
    (after (step { keyedRom with
      done := true, ovr := true, inputs := wr 0 .status 0x0000000A#32 })).statusWord = 0x4#32 := by decide
/-- V-CSR-4: a write to KEYLEN during BUSY is ignored and sets OVR. -/
theorem test_write_while_busy :
    let t := after (step { (State.reset.accept 1#32) with inputs := wr 0 .keylen 5#32 })
    t.keylen = 0#32 ∧ t.ovr = true := by decide
/-- V-CSR-5: an 8-bit write to offset 0x010 gets the error response, and OVR stays 0 though BUSY. -/
theorem test_narrow_write :
    let t := after (step { (State.reset.accept 1#32) with inputs := [.csrWrite 0x010 1 5#32] })
    t.response = .error ∧ t.ovr = false := by decide
/-- V-CSR-1: RD ID after reset. -/
theorem test_read_id : (after (step { State.reset with inputs := rd 0 .id })).response = .data 0x424C4631#32 := by decide
/-- V-CSR-6: with IE = 1 a completion raises `irq`. -/
theorem test_irq : (after (step { (State.reset.accept 0#32) with ie := true })).irq = true := by decide
/-- V-DEC: an ILLEGAL word accepted after reset gives STATUS = 0x00000302. -/
theorem test_illegal_word : (after (step (State.reset.accept 0x14#32))).statusWord = 0x302#32 := by decide
/-- 30_encoding R124: LOADKEY 61 62 63 writes KEY0 = 0x61626300 and KEYLEN = 3. -/
theorem test_load_key : loadKey 0 [0x61#8, 0x62#8, 0x63#8] =
    [.csrWrite 0x040 4 0x61626300#32, .csrWrite 0x010 4 3#32] := by decide
/-- The first command after reset: ENC_BUF's word runs ENC_BUF, which finds KEYED = 0. -/
theorem test_first_command : (after (step (State.reset.withFetchWord 32 4))).statusWord = 0x202#32 := by decide
/-- 20_memory R97: on a platform that is not coherent a store stays in the host's cache, where the host sees it and the engine
does not, until it is cleaned. -/
theorem test_store_not_coherent :
    let s : State := { State.reset with platform := { base := 0, errors := [], coherent := false } }
    let t := after (step { s with inputs := [.memWrite 5#32 7#8] })
    t.hostByte 5 = 7#8 ∧ t.mem.read 5 = 0#8 ∧ (after (step { t with inputs := [.cacheClean 5#32] })).mem.read 5 = 7#8 := by decide
/-- 70_reset_and_hazards R252, 20_memory R92, R93: before a STATUS read a load of a destination byte may return the old value,
0x00, or the new one, 0x70 (95 V-BLK-2); after it only the new one, whatever the pick. -/
theorem test_load_before_observation :
    let t := after (step ({ keyedRom with src := 0x1000#32, dst := 0x2000#32, len := 8#32 }.accept 4#32))
    let u := after (step { t with inputs := rd 0 .status })
    (t.hostLoad 0x2000#32 0).response = .byte 0x70#8 ∧ (t.hostLoad 0x2000#32 1).response = .byte 0#8 ∧
      (u.hostLoad 0x2000#32 1).response = .byte 0x70#8 := by decide
/-- 70_reset_and_hazards R252, 20_memory R93: a store into the source before the STATUS read makes the 8 bytes of the
destination block free values; after it none. -/
theorem test_store_before_observation :
    let t := after (step ({ keyedRom with src := 0x1000#32, dst := 0x2000#32, len := 8#32 }.accept 4#32))
    let u := after (step { t with inputs := rd 0 .status })
    (t.hostStore 0x1007#32 1#8).draws = 8 ∧ (u.hostStore 0x1007#32 1#8).draws = 0 ∧
      (u.hostStore 0x1007#32 1#8).mem.read 0x2000 = 0x70#8 := by decide
/-- 30_encoding R124: MEM 0x10: AA BB leaves the bytes in memory. -/
theorem test_mem_line :
    (stepAll 6 { State.reset with
      platform := { base := 0, errors := [], coherent := false }, inputs := memBytes 0x10#32 [0xAA#8, 0xBB#8] }).mem
      = [(0x10, 0xAA#8), (0x11, 0xBB#8)] := by decide
/-- 70_reset_and_hazards R242: reset during a block command leaves memory and goes idle. -/
theorem test_reset_during_block :
    let t := after (step { (keyedRom.accept 2#32) with mem := [(5, 1#8)], inputs := [.reset] })
    t.mem = [(5, 1#8)] ∧ t.statusWord = 0#32 := by decide

/-! ## Witnesses: for each statement with hypotheses, a concrete state and operands that meet them, each clause at a boundary -/

/-- A machine at BF_BASE 0x100 with one event to handle. -/
def idleWith (e : Event) : State := { State.reset with platform := { base := 0x100, errors := [], coherent := true }, inputs := [e] }

/-- A machine at BF_BASE 0x100 that runs command word `w`, with one event to handle. -/
def busyWith (w : Word) (e : Event) : State := { (idleWith e).accept w with inputs := [e] }

/-- A machine ready to run a command, with KEYLEN `n`. -/
def keyLength (n : Word) : State := { State.reset with keylen := n }

/-- A keyed machine ready for a buffer command. -/
def buffer (src dst len : Word) : State := { keyedRom with src := src, dst := dst, len := len }

theorem empty_wf : Memory.wf [] := by decide

theorem witness_OpcodeMapDecodes : 6 ≤ (6 : Fin 16).val ∧ 6 ≤ (15 : Fin 16).val := by decide

theorem witness_DecoderIsTheSpecsDecoder :
    (0x10#32).toNat / 16 ≠ 0 ∧ (0xFFFFFFF5#32).toNat / 16 ≠ 0 ∧
      (∀ k, 1 ≤ k → k ≤ 5 → (BitVec.ofNat 32 k).toNat / 16 = 0 ∧ (BitVec.ofNat 32 k).toNat % 16 = k) ∧
      (0x0#32).toNat / 16 = 0 ∧ (0x0#32).toNat % 16 = 0 ∧ (0x6#32).toNat / 16 = 0 ∧ 6 ≤ (0x6#32).toNat % 16 ∧
      (0xF#32).toNat / 16 = 0 ∧ 6 ≤ (0xF#32).toNat % 16 := by
  refine ⟨by decide, by decide, fun k h1 h2 => ?_, by decide, by decide, by decide, by decide, by decide, by decide⟩
  rcases (by omega : k = 1 ∨ k = 2 ∨ k = 3 ∨ k = 4 ∨ k = 5) with rfl | rfl | rfl | rfl | rfl <;> decide

theorem witness_EncodeAndDecodeAgree : Instr.wellFormed .decBuf = true ∧ decode 0x5#32 = .ok .decBuf ∧
    decode 0x1#32 = .ok .schedule := by decide

/-- The four accesses get no error, though those on either side of them do. -/
theorem witness_WordsAreBigEndian :
    let p : Platform := { base := 0, errors := [⟨.read, 0, 9⟩, ⟨.read, 14, 20⟩, ⟨.write, 0, 9⟩, ⟨.write, 14, 20⟩], coherent := true }
    Memory.wf [(10, 1#8)] ∧ (∀ k, k < 4 → p.busErr ⟨.read, 10 + k⟩ = false) ∧
      (∀ k, k < 4 → p.busErr ⟨.write, 10 + k⟩ = false) := by decide

theorem witness_KeyBytesAreBigEndianInTheKeyRegisters : 0 ≤ 71 ∧ 71 ≤ 71 := by decide

theorem witness_CsrReadsReturnTheRegisters :
    (idleWith (.csrRead 0x100 4)).inputs = .csrRead ((idleWith (.csrRead 0x100 4)).platform.base + 0x000) 4 :: [] ∧
      (busyWith 2#32 (.csrRead 0x184 4)).inputs =
        .csrRead ((busyWith 2#32 (.csrRead 0x184 4)).platform.base + 0x084) 4 :: [] ∧
      0x084 = 0x040 + 4 * (17 : Fin 18).val ∧ 0x040 = 0x040 + 4 * (0 : Fin 18).val := by decide

theorem witness_StatusRegister :
    (idleWith (.csrRead 0x10C 4)).inputs = .csrRead ((idleWith (.csrRead 0x10C 4)).platform.base + 0x00C) 4 :: [] ∧
      (idleWith (.csrWrite 0x10C 4 0xA#32)).inputs =
        .csrWrite ((idleWith (.csrWrite 0x10C 4 0xA#32)).platform.base + 0x00C) 4 0xA#32 :: [] := by decide

theorem witness_CtrlRegister :
    (idleWith (.csrRead 0x104 4)).inputs = .csrRead ((idleWith (.csrRead 0x104 4)).platform.base + 0x004) 4 :: [] ∧
    (busyWith 1#32 (.csrWrite 0x104 4 3#32)).inputs =
      .csrWrite ((busyWith 1#32 (.csrWrite 0x104 4 3#32)).platform.base + 0x004) 4 3#32 :: [] := by decide

theorem witness_IdRegister :
    (idleWith (.csrRead 0x100 4)).inputs = .csrRead ((idleWith (.csrRead 0x100 4)).platform.base + 0x000) 4 :: [] ∧
      (idleWith (.csrWrite 0x100 4 5#32)).inputs =
        .csrWrite ((idleWith (.csrWrite 0x100 4 5#32)).platform.base + 0x000) 4 5#32 :: [] := by decide

theorem witness_OperandWritesWhenIdle : ∀ offset ∈ [0x010, 0x014, 0x018, 0x01C, 0x020, 0x024, 0x040, 0x084],
    (idleWith (.csrWrite (0x100 + offset) 4 5#32)).seq = .idle ∧
      (idleWith (.csrWrite (0x100 + offset) 4 5#32)).inputs =
        .csrWrite ((idleWith (.csrWrite (0x100 + offset) 4 5#32)).platform.base + offset) 4 5#32 :: [] :=
  fun _ _ => ⟨rfl, rfl⟩

theorem witness_WritesWhileBusy :
    ∀ offset ∈ [0x004, 0x008, 0x00C, 0x010, 0x024, 0x028, 0x03C, 0x040, 0x084, 0x088, 0x0FC],
    (∃ r, (busyWith 2#32 (.csrWrite (0x100 + offset) 4 5#32)).seq = .busy r) ∧
      (busyWith 2#32 (.csrWrite (0x100 + offset) 4 5#32)).inputs =
        .csrWrite ((busyWith 2#32 (.csrWrite (0x100 + offset) 4 5#32)).platform.base + offset) 4 5#32 :: [] :=
  fun _ _ => ⟨⟨_, rfl⟩, rfl⟩

theorem witness_ReservedOffsets : ∀ offset ∈ [0x028, 0x03C, 0x088, 0x0FC],
    offset % 4 = 0 ∧ ((0x028 ≤ offset ∧ offset ≤ 0x03C) ∨ (0x088 ≤ offset ∧ offset ≤ 0x0FC)) ∧
      (idleWith (.csrRead (0x100 + offset) 4)).inputs =
        .csrRead ((idleWith (.csrRead (0x100 + offset) 4)).platform.base + offset) 4 :: [] ∧
      (idleWith (.csrWrite (0x100 + offset) 4 5#32)).inputs =
        .csrWrite ((idleWith (.csrWrite (0x100 + offset) 4 5#32)).platform.base + offset) 4 5#32 :: [] := by
  intro offset h
  simp only [List.mem_cons, List.not_mem_nil, or_false] at h
  exact ⟨by omega, by omega, rfl, rfl⟩

theorem witness_IllFormedAccessGetsErrorResponse :
    (0xFF < 0x100 ∧ 0xFF % 4 ≠ 0) ∧ (0x000 < 0x100 ∧ (1 : Nat) ≠ 4) ∧
      (idleWith (.csrRead 0x1FF 4)).inputs = .csrRead ((idleWith (.csrRead 0x1FF 4)).platform.base + 0xFF) 4 :: [] ∧
      (busyWith 1#32 (.csrWrite 0x100 1 9#32)).inputs =
        .csrWrite ((busyWith 1#32 (.csrWrite 0x100 1 9#32)).platform.base + 0x000) 1 9#32 :: [] := by decide

theorem witness_CmdWriteAccepts : ∀ w ∈ [0x0#32, 0x1#32, 0x5#32, 0xFFFFFFFF#32],
    (idleWith (.csrWrite 0x108 4 w)).seq = .idle ∧
      (idleWith (.csrWrite 0x108 4 w)).inputs =
        .csrWrite ((idleWith (.csrWrite 0x108 4 w)).platform.base + 0x008) 4 w :: [] := fun _ _ => ⟨rfl, rfl⟩

theorem witness_IrqLevel :
    (∃ t, exec .schedule State.reset = .next t) ∧
      (∃ t, step (idleWith (.csrWrite 0x10C 4 2#32)) = .next t) ∧ (2#32).getLsbD 1 = true ∧
      (∃ t, step (idleWith (.csrWrite 0x104 4 1#32)) = .next t) := ⟨⟨_, rfl⟩, ⟨_, rfl⟩, by decide, ⟨_, rfl⟩⟩

theorem witness_StepRunsTheLatchedCommand :
    (∃ r, (State.reset.accept 1#32).seq = .busy r ∧ decode r.word = .ok .schedule) ∧ (State.reset.accept 1#32).inputs = [] ∧
      (∃ r, (busyWith 5#32 .finish).seq = .busy r ∧ decode r.word = .ok .decBuf) ∧
      (busyWith 5#32 .finish).inputs = .finish :: [] ∧ State.reset.seq = .idle ∧ State.reset.inputs = [] :=
  ⟨⟨_, rfl, by decide⟩, rfl, ⟨_, rfl, by decide⟩, rfl, rfl, rfl⟩

theorem witness_IllegalCommandCompletes : State.reset.seq = .idle ∧ decode 0x6#32 = .error .illegalOp ∧
    decode 0x10#32 = .error .reservedBits ∧ State.reset.inputs = [] := by decide

theorem witness_ScheduleRefusesNonPositiveLength :
    sKeylen (keyLength 0#32).operands.keylen ≤ 0 ∧ sKeylen (keyLength 0xFFFFFFFF#32).operands.keylen ≤ 0 ∧
      sKeylen (keyLength 0x80000000#32).operands.keylen ≤ 0 := by decide

theorem witness_ScheduleCompletes :
    0 < sKeylen (keyLength 1#32).operands.keylen ∧ 0 < sKeylen (keyLength 0x7FFFFFFF#32).operands.keylen := by decide

theorem witness_ScheduleIsTheChainOf521Encryptions :
    0 < sKeylen (keyLength 1#32).operands.keylen ∧
      ∃ t, exec .schedule (keyLength 1#32) = .next t := ⟨by decide, _, rfl⟩

theorem witness_KeyWordsEqualTheSourcesBuffer : 1 ≤ 1 ∧ 1 ≤ 56 := by decide

theorem witness_CipherStateDependsOnlyOnTheKey :
    0 < sKeylen (keyLength 72#32).operands.keylen ∧ 0 < sKeylen (keyLength 100#32).operands.keylen ∧
      min (sKeylen (keyLength 72#32).operands.keylen) 72 = min (sKeylen (keyLength 100#32).operands.keylen) 72 ∧
      (∀ n : Nat, (n : Int) < min (sKeylen (keyLength 72#32).operands.keylen) 72 →
        keyByte (keyLength 72#32).operands.key n = keyByte (keyLength 100#32).operands.key n) ∧
      ∃ t t', exec .schedule (keyLength 72#32) = .next t ∧ exec .schedule (keyLength 100#32) = .next t' :=
  ⟨by decide, by decide, by decide, fun _ _ => rfl, _, _, rfl, rfl⟩

/-- A SCHEDULE in its first micro-step: the next one writes the keyed tables. -/
def scheduling : State := busyWith 1#32 (.tick 0) |> fun s => { s with
  keylen := 1#32
  seq := .busy ⟨1#32, { s.latch with keylen := 1#32 }, .checks, [], []⟩ }

theorem witness_OnlyScheduleWritesTheCipherState :
    (Instr.decBlock ≠ .schedule ∧ ∃ t, exec .decBlock State.reset = .next t) ∧
      (∀ r, scheduling.seq = .busy r → RunFits r) ∧
      ∃ t, step scheduling = .next t ∧ t.cipher.pAt 1 ≠ scheduling.cipher.pAt 1 := by
  refine ⟨⟨by decide, _, rfl⟩, fun r hr => ?_, _, rfl, by decide⟩
  cases hr
  trivial

theorem witness_FeistelValue :
    (0x01020304#32).toNat = (1#8).toNat * 2 ^ 24 + (2#8).toNat * 2 ^ 16 + (3#8).toNat * 2 ^ 8 + (4#8).toNat ∧
      (0xFFFFFFFF#32).toNat = (255#8).toNat * 2 ^ 24 + (255#8).toNat * 2 ^ 16 + (255#8).toNat * 2 ^ 8 + (255#8).toNat := by
  decide

theorem witness_BlockTransformIsSixteenRounds (d : Dir) :
    ∃ (t : CipherState) (l r : Nat → Word), ∀ i, i < 16 →
      l (i + 1) = r i ^^^ feistel t (l i ^^^ t.pAt (keyIndex d i)) ∧ r (i + 1) = l i ^^^ t.pAt (keyIndex d i) :=
  ⟨CipherState.atReset, fun n => (loop n (roundStep d CipherState.atReset) (1#32, 2#32)).1,
    fun n => (loop n (roundStep d CipherState.atReset) (1#32, 2#32)).2, fun _ _ => ⟨rfl, rfl⟩⟩

theorem witness_EncBlockCommand : keyedRom.keyed = true ∧ State.reset.keyed = false := by decide

theorem witness_DecBlockCommand : keyedRom.keyed = true ∧ State.reset.keyed = false := by decide

theorem witness_DecBlockRestoresTheBlock : keyedRom.keyed = true ∧ keyedRom.seq = .idle := by decide

theorem witness_TransformsNeedAKey : Instr.encBuf ≠ .schedule ∧ State.reset.keyed = false := by decide

theorem witness_BufferRangeRefused :
    (buffer 0xFFFFFFF9#32 0#32 8#32).keyed = true ∧ 0 < (buffer 0xFFFFFFF9#32 0#32 8#32).operands.len.toNat ∧
      (buffer 0xFFFFFFF9#32 0#32 8#32).operands.src.toNat + (buffer 0xFFFFFFF9#32 0#32 8#32).operands.len.toNat > 2 ^ 32 ∧
      (buffer 0#32 0xFFFFFFFF#32 2#32).operands.dst.toNat + (buffer 0#32 0xFFFFFFFF#32 2#32).operands.len.toNat > 2 ^ 32 := by
  decide

theorem witness_BufferOverlapRefused :
    let s := buffer 0x1000#32 0x100F#32 16#32
    s.keyed = true ∧ s.operands.src.toNat + s.operands.len.toNat ≤ 2 ^ 32 ∧
      s.operands.dst.toNat + s.operands.len.toNat ≤ 2 ^ 32 ∧ s.operands.src ≠ s.operands.dst ∧
      (s.operands.src.toNat ≤ 0x100F ∧ 0x100F < s.operands.src.toNat + s.operands.len.toNat) ∧
      (s.operands.dst.toNat ≤ 0x100F ∧ 0x100F < s.operands.dst.toNat + s.operands.len.toNat) := by decide

theorem witness_EmptyBufferCompletes :
    (buffer 0xFFFFFFFF#32 0#32 0#32).keyed = true ∧ (buffer 0xFFFFFFFF#32 0#32 0#32).operands.len = 0#32 := by decide

theorem buffer_bus_clear (src dst len : Word) : BusClear (buffer src dst len).platform (buffer src dst len).operands :=
  fun _ _ => ⟨rfl, rfl⟩

theorem buffer_checks : ChecksPass (buffer 0x1003#32 0x1003#32 11#32).keyed (buffer 0x1003#32 0x1003#32 11#32).operands ∧
    ChecksPass (buffer 0x1003#32 0x100E#32 11#32).keyed (buffer 0x1003#32 0x100E#32 11#32).operands ∧
    ChecksPass (buffer 0xFFFFFFF8#32 0x1000#32 8#32).keyed (buffer 0xFFFFFFF8#32 0x1000#32 8#32).operands ∧
    ChecksPass (buffer 0x1003#32 0x1003#32 16#32).keyed (buffer 0x1003#32 0x1003#32 16#32).operands := by
  unfold ChecksPass
  decide

/-- In place, out of place with the ranges touching, and at the top of memory. -/
theorem witness_BufferResult (s : State)
    (h : s = buffer 0x1003#32 0x1003#32 11#32 ∨ s = buffer 0x1003#32 0x100E#32 11#32 ∨ s = buffer 0xFFFFFFF8#32 0x1000#32 8#32) :
    Memory.wf s.mem ∧ ChecksPass s.keyed s.operands ∧ BusClear s.platform s.operands ∧ s.raced = [] := by
  rcases h with rfl | rfl | rfl
  · exact ⟨empty_wf, buffer_checks.1, buffer_bus_clear _ _ _, rfl⟩
  · exact ⟨empty_wf, buffer_checks.2.1, buffer_bus_clear _ _ _, rfl⟩
  · exact ⟨empty_wf, buffer_checks.2.2.1, buffer_bus_clear _ _ _, rfl⟩

/-- A running ENC_BUF of two blocks and three trailing bytes whose second block a host wrote. -/
def racedBuffer : State := { buffer 0x1000#32 0x2000#32 19#32 with
  seq := .busy ⟨4#32, (buffer 0x1000#32 0x2000#32 19#32).latch, .checks, [], [0x1008]⟩ }

theorem witness_RacedBufferResult :
    Memory.wf racedBuffer.mem ∧ ChecksPass racedBuffer.keyed racedBuffer.operands ∧
      BusClear racedBuffer.platform racedBuffer.operands ∧ racedOffset racedBuffer.operands racedBuffer.raced 7 = false ∧
      racedOffset racedBuffer.operands racedBuffer.raced 8 = true ∧ racedOffset racedBuffer.operands racedBuffer.raced 16 = false := by
  refine ⟨by decide, by unfold ChecksPass; decide, fun _ _ => ⟨rfl, rfl⟩, by decide, by decide, by decide⟩

/-- Only the last byte read gets an error response. -/
theorem witness_BusErrorCompletes :
    let s := { buffer 0x1000#32 0x2000#32 11#32 with platform := { base := 0, errors := [⟨.read, 0x100A, 0x100A⟩], coherent := true } }
    Memory.wf s.mem ∧ ChecksPass s.keyed s.operands ∧ ¬ BusClear s.platform s.operands := by
  refine ⟨by decide, by unfold ChecksPass; decide, fun h => ?_⟩
  exact absurd (h 10 (by decide)).1 (by decide)

theorem witness_DecBufRestoresThePlaintext :
    ∃ t u v : State, exec .encBuf (buffer 0x1003#32 0x1003#32 11#32) = .next t ∧
      u = { buffer 0x1003#32 0x1003#32 11#32 with mem := t.mem } ∧ u.raced = [] ∧ ChecksPass u.keyed u.operands ∧
      BusClear u.platform u.operands ∧ u.operands.src = (buffer 0x1003#32 0x1003#32 11#32).operands.dst ∧
      u.operands.len = (buffer 0x1003#32 0x1003#32 11#32).operands.len ∧ exec .decBuf u = .next v :=
  ⟨_, _, _, rfl, rfl, rfl, buffer_checks.1, buffer_bus_clear _ _ _, rfl, rfl, rfl⟩

/-- Two equal blocks of one command (95 V-BUF-4). -/
theorem witness_BlocksAreIndependent :
    let s := buffer 0x1003#32 0x1003#32 16#32
    Memory.wf s.mem ∧ s.raced = [] ∧ exec .encBuf s = .next (after (exec .encBuf s)) ∧ (after (exec .encBuf s)).err = .ok ∧
      0 < s.operands.blocks ∧ 1 < s.operands.blocks ∧
      ∀ k, k < 8 → s.mem.read (s.operands.src.toNat + 8 * 0 + k) = s.mem.read (s.operands.src.toNat + 8 * 1 + k) :=
  ⟨by decide, rfl, rfl, by decide, by decide, by decide, fun _ _ => rfl⟩

theorem witness_BlockAndBufferCommandsAgree :
    let s := buffer 0x1003#32 0x1003#32 8#32
    s.keyed = true ∧ Memory.wf s.mem ∧ s.raced = [] ∧ s.operands.len = 8#32 ∧
      (s.operands.blkL, s.operands.blkR) = sourceBlock s.mem s.operands.src.toNat 0 ∧
      exec .encBlock s = .next (after (exec .encBlock s)) ∧ exec .encBuf s = .next (after (exec .encBuf s)) ∧
      (after (exec .encBuf s)).err = .ok := ⟨rfl, by decide, rfl, rfl, by decide, rfl, rfl, by decide⟩

/-- A machine on a platform that does not keep its caches coherent, with a copy of address 0xFFFFFFFF and one event to handle. -/
def cachedWith (e : Event) : State := { State.reset with
  platform := { base := 0x100, errors := [], coherent := false }
  cache := [(0xFFFFFFFF, 9#8)]
  inputs := [e] }

/-- A machine that has completed an ENC_BUF of the 8 bytes at 0x1000 to 0x2000, its completion not observed: the byte at 0x2000 was
0 before and is 0x70 now (95 V-BLK-2). -/
def unseen (inputs : List Event) : State := { buffer 0x1000#32 0x2000#32 8#32 with
  mem := [(0x2000, 0x70#8)]
  unobserved := [{ ops := (buffer 0x1000#32 0x2000#32 8#32).latch, before := [] }]
  inputs := inputs }

/-- A coherent platform, and one that is not, with and without a copy of the byte; and the byte in memory, a new one and an old
one. -/
theorem witness_HostLoadReturnsOldOrNew :
    ((idleWith (.memRead 0xFFFFFFFF#32 1)).inputs = .memRead 0xFFFFFFFF#32 1 :: [] ∧
      (idleWith (.memRead 0xFFFFFFFF#32 1)).platform.coherent = true) ∧
      ((cachedWith (.memRead 0#32 1)).inputs = .memRead 0#32 1 :: [] ∧
        (cachedWith (.memRead 0#32 1)).cache.find 0 = none) ∧
      ((cachedWith (.memRead 0xFFFFFFFF#32 1)).inputs = .memRead 0xFFFFFFFF#32 1 :: [] ∧
        (cachedWith (.memRead 0xFFFFFFFF#32 1)).platform.coherent = false ∧
        (cachedWith (.memRead 0xFFFFFFFF#32 1)).cache.find 0xFFFFFFFF = some 9#8) ∧
      (0x70#8 = (unseen []).mem.read 0x2000 ∧
        ∃ d ∈ (unseen []).unobserved, d.ops.inDest 0x2000 = true ∧ 0#8 = d.before.read 0x2000) ∧
      ∃ r : Run, racedBuffer.seq = .busy r ∧ r.ops.inDest 0x2000 = true ∧
        ({ r with out := [(0x2000, 5#8)] } : Run).out.lookup 0x2000 = some 5#8 :=
  ⟨by decide, by decide, by decide, ⟨by decide, _, List.mem_cons_self, by decide, by decide⟩, _, rfl, by decide, by decide⟩

theorem witness_HostStoreWritesOneByte :
    Memory.wf racedBuffer.mem ∧ Memory.wf (idleWith (.memWrite 0xFFFFFFFF#32 1#8)).mem ∧
      (idleWith (.memWrite 0xFFFFFFFF#32 1#8)).inputs = .memWrite 0xFFFFFFFF#32 1#8 :: [] ∧
      (idleWith (.memWrite 0xFFFFFFFF#32 1#8)).platform.coherent = true ∧
      Memory.wf (cachedWith (.memWrite 0#32 1#8)).mem ∧ (cachedWith (.memWrite 0#32 1#8)).inputs = .memWrite 0#32 1#8 :: [] ∧
      (cachedWith (.memWrite 0#32 1#8)).platform.coherent = false ∧
      (Memory.wf (unseen [.memWrite 0x1000#32 1#8]).mem ∧
        (unseen [.memWrite 0x1000#32 1#8]).inputs = .memWrite 0x1000#32 1#8 :: []) := by decide

/-- For each clause a state that meets it: the copy there, and not there. -/
theorem witness_HostCacheMoves :
    ((idleWith (.cacheClean 5#32)).platform.coherent = true ∧ (idleWith (.cacheClean 5#32)).inputs = .cacheClean 5#32 :: []) ∧
      (∀ a ∈ [0#32, 0xFFFFFFFF#32],
        (cachedWith (.cacheFill a 1)).platform.coherent = false ∧
          (cachedWith (.cacheFill a 1)).inputs = .cacheFill a 1 :: [] ∧
          (cachedWith (.cacheClean a)).inputs = .cacheClean a :: [] ∧
          (cachedWith (.cacheInvalidate a)).inputs = .cacheInvalidate a :: []) ∧
      (cachedWith .finish).cache.find 0xFFFFFFFF = some 9#8 ∧ (cachedWith .finish).cache.find 0 = none :=
  ⟨by decide, fun _ _ => ⟨rfl, rfl, rfl, rfl⟩, by decide, by decide⟩

theorem witness_EngineSeesNoHostCache : ∃ t, exec .schedule State.reset = .next t := ⟨_, rfl⟩

/-- ENC_BUF of the 11 bytes at 0x1003 to 0x100E by a host that does the maintenance of 20_memory R97: the source's last byte is in
its cache only, and a stale copy of the destination's first byte too. -/
def maintained (coherent : Bool) : State := { buffer 0x1003#32 0x100E#32 11#32 with
  platform := { base := 0x100, errors := [], coherent := coherent }
  cache := if coherent then [] else [(0x100D, 7#8), (0x100E, 8#8)]
  inputs := cleanRange 0x1003#32 11 ++ cmd 0x100 .encBuf ++ [.finish] ++ rd 0x100 .status ++
    invalidateRange 0x100E#32 11 ++ [] }

/-- On a coherent platform, where the host sees zeros, and on one that is not. -/
theorem witness_MaintenanceMakesBuffersCoherent :
    ∀ p ∈ [(true, []), (false, [(0x100D, 7#8)])],
      (maintained p.1).seq = .idle ∧ (maintained p.1).unobserved = [] ∧ Memory.wf (maintained p.1).mem ∧
        ChecksPass (maintained p.1).keyed (maintained p.1).latch ∧
        BusClear (maintained p.1).platform (maintained p.1).latch ∧ 0 < (maintained p.1).len.toNat ∧
        (maintained p.1).inputs = cleanRange (maintained p.1).src (maintained p.1).len.toNat ++
          cmd (maintained p.1).platform.base .encBuf ++ [.finish] ++ rd (maintained p.1).platform.base .status ++
          invalidateRange (maintained p.1).dst (maintained p.1).len.toNat ++ [] ∧
        ∀ off, off < 11 → Memory.read p.2 (0x1003 + off) = (maintained p.1).hostByte (0x1003 + off) := by
  intro p hp
  have hc : BusClear (maintained p.1).platform (maintained p.1).latch := fun _ _ => ⟨rfl, rfl⟩
  simp only [List.mem_cons, List.not_mem_nil, or_false] at hp
  rcases hp with rfl | rfl
  · exact ⟨rfl, rfl, by decide, buffer_checks.2.1, hc, by decide, rfl, by decide⟩
  · exact ⟨rfl, rfl, by decide, buffer_checks.2.1, hc, by decide, rfl, by decide⟩

theorem witness_ResetInput :
    Memory.wf (busyWith 4#32 .reset).mem ∧ (busyWith 4#32 .reset).inputs = .reset :: [] ∧
      ∃ r, (busyWith 4#32 .reset).seq = .busy r ∧ r.ops.inDest 5 = false := ⟨by decide, by decide, _, rfl, by decide⟩

/-- SCHEDULE of KEYLEN 1 in encryption `n`, before round `round`. -/
def scheduleAt (n round : Nat) : State := { State.reset with
  keylen := 1#32
  cipher := (chain State.reset.key 1 n).1
  seq := .busy ⟨1#32, { State.reset.latch with keylen := 1#32 },
    .sched n round (loop round (roundStep .enc (chain State.reset.key 1 n).1) (chain State.reset.key 1 n).2).1
      (loop round (roundStep .enc (chain State.reset.key 1 n).1) (chain State.reset.key 1 n).2).2, [], []⟩ }

theorem decode_schedule_word : decode 1#32 = .ok .schedule := by decide

theorem scheduleAt_inv {n round : Nat} (hn : n ≤ 520) (hr : round ≤ 15) : Inv (scheduleAt n round) where
  memory := empty_wf
  base := rfl
  copies := List.Pairwise.nil
  coherent _ := rfl
  owed _ hd := by cases hd
  flags _ _ := ⟨rfl, rfl⟩
  latched r h := by cases h; rfl
  fits r h := by
    cases h
    unfold RunFits
    rw [show decode _ = Except.ok Instr.schedule from decode_schedule_word]
    exact ⟨rfl, hn, hr⟩
  unkeyed _ _ _ := rfl
  tables r h := by
    cases h
    exact ⟨(by decide : (0 : Int) < sKeylen 1#32), rfl, rfl⟩
  scheduled h := by cases h

/-- In the first round of the first encryption, and in the last round of the last. -/
theorem witness_ScheduleMicroStepsRefine :
    Inv (scheduleAt 0 0) ∧ Inv (scheduleAt 520 15) ∧ Inv (State.reset.accept 1#32) ∧
      (∃ r, (scheduleAt 520 15).seq = .busy r ∧ decode r.word = .ok .schedule) :=
  ⟨scheduleAt_inv (by decide) (by decide), scheduleAt_inv (by decide) (by decide),
    (inv_of_idle empty_wf rfl rfl rfl rfl (fun h => by cases h)).accept _, _, rfl, by decide⟩

/-- ENC_BLOCK in its last round. -/
theorem witness_BlockMicroStepsRefine :
    ∃ (s : State) (r : Run), s.seq = .busy r ∧ RunFits r ∧ decode r.word = .ok .encBlock ∧
      BlockProgress (cipherDir .encBlock) s.cipher s.keyed r.ops r.progress := by
  refine ⟨{ keyedRom with seq := .busy ⟨2#32, keyedRom.latch, .block 15
      (loop 15 (roundStep .enc romCipher) (0#32, 0#32)).1 (loop 15 (roundStep .enc romCipher) (0#32, 0#32)).2, [], []⟩ },
    _, rfl, ?_, by decide, rfl, rfl⟩
  unfold RunFits
  rw [show decode _ = Except.ok Instr.encBlock from (by decide : decode 2#32 = .ok .encBlock)]
  exact ⟨.inl rfl, Nat.le_refl _⟩

/-- An accepted ENC_BUF, in place, and the same command with the reads of its first block before it. -/
theorem acceptedBuffer_inv : BufferInv ((buffer 0x1003#32 0x1003#32 11#32).accept 4#32) := by
  refine ⟨by decide, fun r hr => ?_⟩
  cases hr
  exact ⟨fun _ => ⟨fun h => absurd rfl h, trivial, nofun, List.nodup_nil, fun _ _ h => h.elim⟩,
    fun _ => ⟨fun h => absurd rfl h, trivial, nofun, List.nodup_nil, fun _ _ h => h.elim⟩⟩

/-- ENC_BUF about to read its first block. -/
def reading (inputs : List Event) : State := { buffer 0x1003#32 0x1003#32 11#32 with
  inputs := inputs
  seq := .busy ⟨4#32, (buffer 0x1003#32 0x1003#32 11#32).latch, .read 0 allEight (Vector.replicate 8 0#8), [], []⟩ }

theorem reading_inv (inputs : List Event) : BufferInv (reading inputs) := by
  refine ⟨empty_wf, fun r hr => ?_⟩
  cases hr
  refine ⟨fun _ => ⟨fun _ => buffer_checks.1, ⟨by decide, by decide, fun k hk => ?_⟩, nofun, List.nodup_nil, fun off _ h => ?_⟩,
    fun h => absurd h (by decide)⟩
  · exact absurd (by revert k; decide) hk
  · exact absurd h (Nat.not_lt_zero _)

theorem witness_BufferMicroStepsRefine :
    BufferInv ((buffer 0x1003#32 0x1003#32 11#32).accept 4#32) ∧ BufferInv (reading []) ∧
      ∃ r, (reading []).seq = .busy r ∧ decode r.word = .ok .encBuf := ⟨acceptedBuffer_inv, reading_inv _, _, rfl, by decide⟩

theorem witness_StepKeepsBufferProgress :
    BufferInv (reading [.tick 0]) ∧ ∃ t, step (reading [.tick 0]) = .next t := ⟨reading_inv _, _, rfl⟩

theorem witness_MicroStepsReachCompletion : ticksLeft (reading []) ≤ (List.replicate 43 0).length ∧
    (reading []).busy = true := by decide

theorem witness_MasterPortAccessOrder :
    let s := (buffer 0x1003#32 0x100E#32 11#32).accept 4#32
    (∃ r, s.seq = .busy r ∧ r.progress = .checks ∧ decode r.word = .ok .encBuf ∧ ChecksPass s.keyed r.ops ∧
      BusClear s.platform r.ops) ∧ ticksLeft s ≤ (List.replicate 8947 0).length := by
  refine ⟨⟨_, rfl, rfl, by decide, buffer_checks.2.1, buffer_bus_clear _ _ _⟩, ?_⟩
  rw [List.length_replicate]
  decide

theorem witness_StepKeepsTheInvariant :
    Inv { scheduleAt 520 15 with inputs := [.tick 0] } ∧
      ∃ t, step { scheduleAt 520 15 with inputs := [.tick 0] } = .next t :=
  ⟨(scheduleAt_inv (by decide) (by decide)).withInputs _, _, rfl⟩

/-- BUSY rises by a CMD write and falls by a completion or reset. -/
theorem witness_BusyChanges :
    (State.busy (idleWith (.csrWrite 0x108 4 4#32)) = false ∧
      (after (step (idleWith (.csrWrite 0x108 4 4#32)))).busy = true) ∧
      ((busyWith 4#32 .finish).busy = true ∧ (after (step (busyWith 4#32 .finish))).busy = false) ∧
      ((busyWith 4#32 .reset).busy = true ∧ (after (step (busyWith 4#32 .reset))).busy = false) ∧
      ∃ r r', (busyWith 4#32 (.csrWrite 0x114 4 9#32)).seq = .busy r ∧
        (after (step (busyWith 4#32 (.csrWrite 0x114 4 9#32)))).seq = .busy r' :=
  ⟨by decide, by decide, ⟨rfl, rfl⟩, _, _, rfl, rfl⟩

/-- DONE rises by a completion and falls by acceptance, by a STATUS write and by reset. -/
theorem witness_DoneChanges :
    ((busyWith 4#32 .finish).done = false ∧ (after (step (busyWith 4#32 .finish))).done = true) ∧
      (after (step { idleWith (.csrWrite 0x108 4 4#32) with done := true })).done = false ∧
      (after (step { idleWith (.csrWrite 0x10C 4 2#32) with done := true })).done = false ∧
      (after (step { idleWith .reset with done := true })).done = false := ⟨by decide, by decide, by decide, rfl⟩

/-- A keyed machine that meets the invariant, with one event to handle. -/
def keyedWith (e : Event) : State := { idleWith e with keyed := true, cipher := scheduleTables State.reset.key 1 }

theorem keyedWith_inv (e : Event) : Inv (keyedWith e) :=
  inv_of_idle empty_wf (show 0x100 % 256 = 0 by decide) rfl rfl rfl fun _ => ⟨State.reset.key, 1, by decide, rfl⟩

/-- KEYED rises by a SCHEDULE's completion and falls by reset and by the acceptance of SCHEDULE. -/
theorem witness_KeyedChanges :
    (Inv ((keyLength 1#32).accept 1#32) ∧ ((keyLength 1#32).accept 1#32).keyed = false ∧
      step ((keyLength 1#32).accept 1#32) =
        .next (((keyLength 1#32).accept 1#32).scheduleDone (scheduleTables State.reset.key 1))) ∧
      (Inv (keyedWith .reset) ∧ (keyedWith .reset).keyed = true ∧ (after (step (keyedWith .reset))).keyed = false) ∧
      (Inv (keyedWith (.csrWrite 0x108 4 1#32)) ∧ (keyedWith (.csrWrite 0x108 4 1#32)).keyed = true ∧
        (after (step (keyedWith (.csrWrite 0x108 4 1#32)))).keyed = false) :=
  ⟨⟨(inv_of_idle empty_wf rfl rfl rfl rfl (fun h => by cases h)).accept _, by decide, rfl⟩, ⟨keyedWith_inv _, rfl, rfl⟩,
    ⟨keyedWith_inv _, rfl, rfl⟩⟩

/-- OVR rises by an ignored write and falls by a STATUS write and by reset. -/
theorem witness_OvrChanges :
    ((busyWith 4#32 (.csrWrite 0x184 4 9#32)).ovr = false ∧
      (after (step (busyWith 4#32 (.csrWrite 0x184 4 9#32)))).ovr = true) ∧
      (after (step { idleWith (.csrWrite 0x10C 4 8#32) with ovr := true })).ovr = false ∧
      (after (step { idleWith .reset with ovr := true })).ovr = false := ⟨by decide, by decide, rfl⟩

/-- A byte changes by a host store, by the cleaning of a copy, and in the destination of a buffer command that completes. -/
theorem witness_MemoryChangesOnlyInTheDestination :
    ((after (step (idleWith (.memWrite 7#32 1#8)))).mem.read 7 ≠ (idleWith (.memWrite 7#32 1#8)).mem.read 7 ∧
      OutInDest (idleWith (.memWrite 7#32 1#8))) ∧
      ((after (step (cachedWith (.cacheClean 0xFFFFFFFF#32)))).mem.read 0xFFFFFFFF = 9#8 ∧
        (cachedWith (.cacheClean 0xFFFFFFFF#32)).mem.read 0xFFFFFFFF = 0#8 ∧
        OutInDest (cachedWith (.cacheClean 0xFFFFFFFF#32))) ∧
      (Spoils (unseen [.memWrite 0x1007#32 1#8]).unobserved 0x1007 0x2000 ∧
        OutInDest (unseen [.memWrite 0x1007#32 1#8]) ∧ Memory.wf (unseen [.memWrite 0x1007#32 1#8]).mem) ∧
      (∀ r, (reading []).seq = .busy r → RunFits r) ∧ OutInDest (reading []) ∧ Memory.wf (reading []).mem ∧
      (after (step (reading []))).mem.read 0x1003 ≠ (reading []).mem.read 0x1003 := by
  refine ⟨⟨by decide, fun r h => by cases h⟩, ⟨by decide, by decide, fun r h => by cases h⟩,
    ⟨⟨_, List.mem_cons_self, by decide, by decide⟩, (fun r h => by cases h), by decide⟩, fun r h => ?_, fun r h => ?_,
    by decide, by decide⟩
  · cases h
    exact ⟨.inl rfl, by decide⟩
  · cases h
    exact ⟨nofun, nofun⟩

end Sys2Proof.Tests
end

section
/-! The big-endian byte order of words (00_scope R16, 20_memory R81, R82): settles O4. -/

namespace Sys2Proof.Machine

/-- The bytes of `be32` are joined from the least significant on: those joined so far stay below the next byte's place. -/
theorem be32_toNat (b0 b1 b2 b3 : Byte) :
    (be32 b0 b1 b2 b3).toNat = b0.toNat * 2 ^ 24 + b1.toNat * 2 ^ 16 + b2.toNat * 2 ^ 8 + b3.toNat := by
  have h0 := b0.isLt
  have h1 := b1.isLt
  have h2 := b2.isLt
  have h3 := b3.isLt
  have hor : (be32 b0 b1 b2 b3).toNat =
      b0.toNat <<< 24 ||| (b1.toNat <<< 16 ||| (b2.toNat <<< 8 ||| b3.toNat)) := by
    simp (disch := omega) only [be32, BitVec.toNat_or, BitVec.toNat_shiftLeft, BitVec.toNat_setWidth_of_le,
      Nat.mod_eq_of_lt, Nat.or_assoc]
  rw [hor, ← Nat.shiftLeft_add_eq_or_of_lt h3 b2.toNat, ← Nat.shiftLeft_add_eq_or_of_lt (i := 16) (by omega) b1.toNat,
    ← Nat.shiftLeft_add_eq_or_of_lt (i := 24) (by omega) b0.toNat]
  omega

/-- `storeWord_some` by offset from `a`: where each byte of a stored word lies. -/
theorem read_storeWord {p : Platform} {m m' : Memory} {a : Nat} {w : Word} (hm : Memory.wf m)
    (hs : storeWord p m a w = some m') {k : Nat} (hk : k < 4) : m'.read (a + k) = unbe32 w k := by
  obtain ⟨-, -, hread⟩ := storeWord_some hm hs
  rw [hread, if_pos (by omega), Nat.add_sub_cancel_left]

/-- A store of a word leaves every byte outside its four as it was. -/
theorem read_storeWord_of_outside {p : Platform} {m m' : Memory} {a : Nat} {w : Word} (hm : Memory.wf m)
    (hs : storeWord p m a w = some m') {x : Nat} (hx : x < a ∨ a + 4 ≤ x) : m'.read x = m.read x := by
  obtain ⟨-, -, hread⟩ := storeWord_some hm hs
  rw [hread, if_neg (by omega)]

end Sys2Proof.Machine

open Sys2Proof.Machine in
/-- Settles O4: `be32` by its value, a load by `loadWord_some`, and a store by where its bytes lie and what it leaves. -/
theorem wordsAreBigEndian : Obligations.WordsAreBigEndian := by
  refine ⟨be32_toNat, fun p m a herr => loadWord_some.2 ⟨herr, rfl⟩, fun p m a w hm herr => ?_⟩
  obtain ⟨m', hs⟩ := storeWord_isSome herr m w
  have byte {k : Nat} (hk : k < 4) : (m'.read (a + k)).toNat = w.toNat / 2 ^ (24 - 8 * k) % 2 ^ 8 := by
    rw [read_storeWord hm hs hk, unbe32_toNat]
  refine ⟨m', hs, ?_, byte (k := 1) (by omega), byte (k := 2) (by omega), ?_,
    fun x hx => read_storeWord_of_outside hm hs hx⟩
  · -- the top byte: nothing of `w` stands above it
    have hw := w.isLt
    have h0 := byte (k := 0) (by omega)
    rw [Nat.add_zero] at h0
    omega
  · have h3 := byte (k := 3) (by omega)
    omega

end

section
/-! How each move of the machine keeps the invariant (10_state R36 to R40, R55, R56): settles O55. -/

namespace Sys2Proof.Safety

open Sys2Proof.Machine

/-! ## Idle states and states that differ where the invariant does not look -/

/-- A machine that has gone idle (by a completion, by reset, by an operand write) keeps the invariant when its memory, what it
owes and the meaning of KEYED do. -/
theorem Inv.toIdle {s t : State} (h : Inv s) (hq : t.seq = .idle) (hm : Memory.wf t.mem) (hp : t.platform = s.platform)
    (hc : t.cache = s.cache) (ho : ∀ d ∈ t.unobserved, Memory.wf d.before)
    (hk : t.keyed = true → ∃ key len, 0 < len ∧ t.cipher = scheduleTables key len) : Inv t where
  memory := hm
  base := hp ▸ h.base
  copies := hc ▸ h.copies
  coherent := by
    rw [hp, hc]
    exact h.coherent
  owed := ho
  flags r hr := by cases hq.symm.trans hr
  latched r hr := by cases hq.symm.trans hr
  fits r hr := by cases hq.symm.trans hr
  unkeyed r hr := by cases hq.symm.trans hr
  tables r hr := by cases hq.symm.trans hr
  scheduled := hk

/-- The invariant says nothing of CTRL.IE, OVR and the last answer. -/
theorem Inv.withUnread {s : State} (h : Inv s) (ie ovr : Bool) (x : Response) :
    Inv { s with ie := ie, ovr := ovr, response := x } := { h with }

/-- Completions may be observed at any time. -/
theorem Inv.withoutOwed {s : State} (h : Inv s) : Inv { s with unobserved := [] } :=
  { h with owed := nofun }

/-! ## Register writes -/

theorem Inv.writeStatus {s : State} (h : Inv s) (v : Word) : Inv (s.writeStatus v) :=
  { h with flags := fun r hr => ⟨by rw [State.writeStatus_done, (h.flags r hr).1]; rfl, (h.flags r hr).2⟩ }

/-- A write that BUSY blocks keeps the invariant when it does in an idle machine. -/
theorem Inv.unlessBusy {s taken : State} (h : Inv s) (ht : s.seq = .idle → Inv taken) : Inv (s.unlessBusy taken) := by
  unfold State.unlessBusy
  split
  · exact h.withUnread s.ie true s.response
  · rename_i hb
    exact ht (State.busy_eq_false.mp (by simpa using hb))

theorem Inv.writeReg {s : State} (h : Inv s) (r : Reg) (v : Word) : Inv (s.writeReg r v) := by
  cases r with
  | id => exact h
  | ctrl => exact h.withUnread (v.getLsbD 0) s.ovr s.response
  | cmd => exact h.unlessBusy fun _ => h.accept v
  | status => exact h.writeStatus v
  | keylen => exact h.unlessBusy fun hq => h.toIdle hq h.memory rfl rfl h.owed h.scheduled
  | src => exact h.unlessBusy fun hq => h.toIdle hq h.memory rfl rfl h.owed h.scheduled
  | dst => exact h.unlessBusy fun hq => h.toIdle hq h.memory rfl rfl h.owed h.scheduled
  | len => exact h.unlessBusy fun hq => h.toIdle hq h.memory rfl rfl h.owed h.scheduled
  | blkL => exact h.unlessBusy fun hq => h.toIdle hq h.memory rfl rfl h.owed h.scheduled
  | blkR => exact h.unlessBusy fun hq => h.toIdle hq h.memory rfl rfl h.owed h.scheduled
  | key j => exact h.unlessBusy fun hq => h.toIdle hq h.memory rfl rfl h.owed h.scheduled

/-! ## Stores, cleans and reset -/

/-- What races leave (canonical memory, more noted races, canonical old memory) keeps the invariant. -/
theorem Inv.noted {s : State} (h : Inv s) {hit : Nat → Prop} {m : Memory} {q : Sequencer} {u : List Completed}
    (hm : Memory.wf m) (hq : Noted hit s.seq q) (hu : ∀ d ∈ u, Memory.wf d.before) (n : Nat) :
    Inv { s with mem := m, draws := n, seq := q, unobserved := u } := by
  cases hs : s.seq with
  | idle => exact h.toIdle (hq.1 hs) hm rfl rfl hu h.scheduled
  | busy r =>
    obtain ⟨l, rfl, -⟩ := hq.2 r hs
    exact { h with
      memory := hm
      owed := hu
      flags := fun _ e => by cases e; exact h.flags r hs
      latched := fun _ e => by cases e; exact h.latched r hs
      fits := fun _ e => by cases e; exact h.fits r hs
      unkeyed := fun _ e => by cases e; exact h.unkeyed r hs
      tables := fun _ e => by cases e; exact h.tables r hs }

theorem Inv.arrive {s : State} (h : Inv s) (a : Nat) (b : Byte) : Inv (s.arrive a b) := by
  obtain ⟨m, n, q, e, hw⟩ := arrive_cases s a b
  obtain ⟨hm, -, hq⟩ := hw h.memory
  rw [e]
  refine h.noted hm hq (fun d hd => ?_) n
  obtain ⟨c, hc, rfl⟩ := List.mem_map.mp hd
  exact Memory.write_wf (h.owed c hc) a b

theorem Inv.keep {s : State} (h : Inv s) (hp : s.platform.coherent = false) (a : Nat) (b : Byte) : Inv (s.keep a b) := by
  obtain ⟨m, n, q, e, hw⟩ := keep_cases s a b
  obtain ⟨hm, -, hq⟩ := hw h.memory
  rw [e]
  exact (h.noted hm hq h.owed n).withCache hp (Cache.put_wf h.copies a b)

theorem Inv.hostStore {s : State} (h : Inv s) (a : Word) (b : Byte) : Inv (s.hostStore a b) := by
  rcases hostStore_cases s a b with ⟨-, e⟩ | ⟨hp, e⟩
  · rw [e]
    exact (h.arrive a.toNat b).withUnread _ _ _
  · rw [e]
    exact (h.keep hp a.toNat b).withUnread _ _ _

theorem Inv.resetInput {s : State} (h : Inv s) : Inv s.resetInput :=
  h.toIdle rfl (resetInput_wf h.memory) rfl rfl h.owed nofun

/-! ## Completions -/

theorem Inv.complete {s : State} (h : Inv s) (code : ErrCode) : Inv (s.complete code) :=
  h.toIdle rfl h.memory rfl rfl h.owed h.scheduled

theorem Inv.scheduleFailed {s : State} (h : Inv s) : Inv s.scheduleFailed :=
  h.toIdle rfl h.memory rfl rfl h.owed nofun

/-- KEYED = 1 over the tables of a key of positive length. -/
theorem Inv.scheduleDone {s : State} (h : Inv s) (key : Vector Word 18) {len : Int} (hl : 0 < len) :
    Inv (s.scheduleDone (scheduleTables key len.toNat)) :=
  h.toIdle rfl h.memory rfl rfl h.owed fun _ => ⟨key, len.toNat, by omega, rfl⟩

theorem Inv.blockDone {s : State} (h : Inv s) (lr : Word × Word) : Inv (s.blockDone lr) :=
  h.toIdle rfl h.memory rfl rfl h.owed h.scheduled

/-- What a buffer command leaves to observe is canonical, as memory before it was. -/
theorem Inv.owed_wf {s : State} (h : Inv s) (o : Operands) : ∀ d ∈ s.owed o, Memory.wf d.before := by
  unfold State.owed
  split
  · exact h.owed
  · intro d hd
    rcases List.mem_cons.mp hd with rfl | hd
    · exact h.memory
    · exact h.owed d hd

theorem Inv.bufferFailed {s : State} (h : Inv s) (o : Operands) : Inv (s.bufferFailed o) :=
  h.toIdle rfl (bufferFailed_wf h.memory o) rfl rfl (h.owed_wf o) h.scheduled

theorem Inv.bufferDone {s : State} (h : Inv s) (o : Operands) (raced : List Nat) {m : Memory} (hm : Memory.wf m) :
    Inv (s.bufferDone o raced m) :=
  h.toIdle (State.bufferDone_seq ..) (bufferDone_wf hm s o raced) (State.bufferDone_platform ..) (State.bufferDone_cache ..)
    (by rw [State.bufferDone_unobserved]; exact h.owed_wf o)
    (by rw [State.bufferDone_keyed, State.bufferDone_cipher]; exact h.scheduled)

theorem Inv.blockCommand {s : State} (h : Inv s) (T : Word × Word → Word × Word) : Inv (s.blockCommand T) := by
  unfold State.blockCommand
  split
  · exact h.blockDone _
  · exact h.complete _

theorem Inv.bufferCommand {s : State} (h : Inv s) (T : Word × Word → Word × Word) : Inv (s.bufferCommand T) := by
  unfold State.bufferCommand
  split
  · exact h.complete _
  · split
    · exact h.bufferFailed _
    · rename_i hm
      exact h.bufferDone _ _ (bufferMemory_wf h.memory hm)

/-- A command run to its completion keeps the invariant. -/
theorem Inv.exec {s t : State} (h : Inv s) {i : Instr} (he : exec i s = .next t) : Inv t := by
  cases i with
  | schedule =>
    simp only [Machine.exec, execSchedule] at he
    split at he
    · cases he
      exact h.scheduleFailed
    · cases he
      exact h.scheduleDone _ (by omega)
  | encBlock => cases he; exact h.blockCommand _
  | decBlock => cases he; exact h.blockCommand _
  | encBuf => cases he; exact h.bufferCommand _
  | decBuf => cases he; exact h.bufferCommand _

/-! ## Micro-steps -/

theorem runFits_iff {r : Run} {i : Instr} (hd : decode r.word = .ok i) : RunFits r ↔ progressFits i r.ops r.progress := by
  unfold RunFits
  rw [hd]

/-- The halves after `round + 1` rounds are one round on from those after `round`. -/
theorem roundStep_eq_loop {d : Dir} {t : CipherState} {round : Nat} {lr start : Word × Word}
    (h : lr = loop round (roundStep d t) start) : roundStep d t round lr = loop (round + 1) (roundStep d t) start := by
  rw [h, loop_succ]

/-- A round of a SCHEDULE whose tables and halves are the key schedule's goes on to tables and halves that are, or ends with the
tables of the key (40_key_schedule R137 to R140). -/
theorem tickSched_cases {s : State} {r : Run} {n round : Nat} {l h : Word} (hn : n ≤ 520) (hr : round ≤ 15)
    (hp : ScheduleProgress s.cipher r.ops (.sched n round l h)) :
    (∃ c n' round' l' h', tickSched n round (l, h) r s = State.goTo { s with cipher := c } r (.sched n' round' l' h') ∧
      n' ≤ 520 ∧ round' ≤ 15 ∧ ScheduleProgress c r.ops (.sched n' round' l' h')) ∨
    tickSched n round (l, h) r s = s.scheduleDone (scheduleTables r.ops.key (sKeylen r.ops.keylen).toNat) := by
  obtain ⟨hlen, htables, hhalves⟩ := hp
  have next := roundStep_eq_loop hhalves
  unfold tickSched
  dsimp only
  by_cases hround : round < 15
  · rw [if_pos hround]
    exact .inl ⟨s.cipher, n, round + 1, _, _, rfl, hn, by omega, hlen, htables, next⟩
  · obtain rfl : round = 15 := by omega
    rw [if_neg hround]
    have pair : whiten .enc s.cipher (roundStep .enc s.cipher 15 (l, h)) =
        (chain r.ops.key (sKeylen r.ops.keylen).toNat (n + 1)).2 := by
      rw [next, htables]
      rfl
    have tables : writePair n (whiten .enc s.cipher (roundStep .enc s.cipher 15 (l, h))) s.cipher =
        (chain r.ops.key (sKeylen r.ops.keylen).toNat (n + 1)).1 := by
      rw [pair, htables]
      rfl
    by_cases hlast : n < 520
    · rw [if_pos hlast]
      exact .inl ⟨_, n + 1, 0, _, _, rfl, by omega, by omega, hlen, tables, pair⟩
    · obtain rfl : n = 520 := by omega
      rw [if_neg hlast, tables]
      exact .inr rfl

/-- A running command that goes on with progress that fits keeps the invariant; P and S change only under SCHEDULE, whose KEYED
is 0. -/
theorem Inv.goesOn {s : State} {r : Run} {i : Instr} (h : Inv s) (hq : s.seq = .busy r) (hd : decode r.word = .ok i)
    {c : CipherState} {p : Progress} (hf : progressFits i r.ops p) (ht : ScheduleProgress c r.ops p)
    (hc : c = s.cipher ∨ isSchedule r.word = true) (out : List Host.Cell) :
    Inv { s with cipher := c, seq := .busy { r with progress := p, out := out } } :=
  { h with
    flags := fun _ e => by cases e; exact h.flags r hq
    latched := fun _ e => by cases e; exact h.latched r hq
    fits := fun _ e => by cases e; exact (runFits_iff (r := { r with progress := p }) hd).mpr hf
    unkeyed := fun _ e => by cases e; exact h.unkeyed r hq
    tables := fun _ e => by cases e; exact ht
    scheduled := fun hk => by
      rcases hc with rfl | hw
      · exact h.scheduled hk
      · cases (h.unkeyed r hq hw).symm.trans hk }

/-- `goesOn` for the commands that leave P and S: their progress is none of SCHEDULE's encryptions. -/
theorem Inv.goTo {s : State} {r : Run} {i : Instr} (h : Inv s) (hq : s.seq = .busy r) (hd : decode r.word = .ok i)
    {p : Progress} (hf : progressFits i r.ops p) (hi : i ≠ .schedule) (out : List Host.Cell) :
    Inv (s.goTo { r with out := out } p) := by
  refine h.goesOn hq hd hf ?_ (.inl rfl) out
  cases p with
  | sched n round l h => exact absurd hf.1 hi
  | _ => trivial

theorem progressFits_atBlock {i : Instr} (hi : i = .encBuf ∨ i = .decBuf) (o : Operands) (j : Nat) :
    progressFits i o (o.atBlock j) := by
  unfold Operands.atBlock
  split
  · exact ⟨hi, ‹_›⟩
  · exact hi

theorem ne_schedule_of_block {i : Instr} (hi : i = .encBlock ∨ i = .decBlock) : i ≠ .schedule := by
  rcases hi with rfl | rfl <;> nofun

theorem ne_schedule_of_buffer {i : Instr} (hi : i = .encBuf ∨ i = .decBuf) : i ≠ .schedule := by
  rcases hi with rfl | rfl <;> nofun

/-- The checks of a block command keep the invariant. -/
theorem Inv.blockChecks {s : State} {r : Run} {i : Instr} (h : Inv s) (hq : s.seq = .busy r) (hd : decode r.word = .ok i)
    (hi : i = .encBlock ∨ i = .decBlock) :
    Inv (if s.keyed then s.goTo r (.block 0 r.ops.blkL r.ops.blkR) else s.complete .notKeyed) := by
  split
  · exact h.goTo hq hd (by exact ⟨hi, Nat.zero_le _⟩) (ne_schedule_of_block hi) r.out
  · exact h.complete _

theorem Inv.tickChecks {s : State} {r : Run} {i : Instr} (h : Inv s) (hq : s.seq = .busy r) (hd : decode r.word = .ok i) :
    Inv (tickChecks i r s) := by
  have buffer (hi : i = .encBuf ∨ i = .decBuf) : Inv (s.goTo r (r.ops.atBlock 0)) :=
    h.goTo hq hd (progressFits_atBlock hi r.ops 0) (ne_schedule_of_buffer hi) r.out
  cases i with
  | schedule =>
    simp only [Machine.tickChecks]
    split
    · exact h.scheduleFailed
    · have hfits : progressFits .schedule r.ops (.sched 0 0 0#32 0#32) := ⟨rfl, Nat.zero_le _, Nat.zero_le _⟩
      exact h.goesOn hq hd hfits ⟨by omega, rfl, rfl⟩ (.inr ((isSchedule_iff _).mpr hd)) r.out
  | encBlock => exact h.blockChecks hq hd (.inl rfl)
  | decBlock => exact h.blockChecks hq hd (.inr rfl)
  | encBuf =>
    simp only [Machine.tickChecks]
    split
    · exact h.complete _
    · exact buffer (.inl rfl)
  | decBuf =>
    simp only [Machine.tickChecks]
    split
    · exact h.complete _
    · exact buffer (.inr rfl)

theorem Inv.tickProgress {s : State} {r : Run} {i : Instr} (h : Inv s) (hq : s.seq = .busy r) (hd : decode r.word = .ok i)
    (pick : Nat) : Inv (tickProgress pick i r s) := by
  have hfits := (runFits_iff hd).mp (h.fits r hq)
  have htables := h.tables r hq
  unfold Machine.tickProgress
  cases hp : r.progress with
  | checks => exact h.tickChecks hq hd
  | sched n round l r' =>
    rw [hp] at hfits htables
    obtain ⟨rfl, hn, hround⟩ := hfits
    rcases tickSched_cases hn hround htables with ⟨c, n', round', l', r'', e, hn', hround', htables'⟩ | e
    · have hfits' : progressFits .schedule r.ops (.sched n' round' l' r'') := ⟨rfl, hn', hround'⟩
      dsimp only
      rw [e]
      exact h.goesOn hq hd hfits' htables' (.inr ((isSchedule_iff _).mpr hd)) r.out
    · dsimp only
      rw [e]
      exact h.scheduleDone _ htables.1
  | block round l r' =>
    rw [hp] at hfits
    obtain ⟨hi, -⟩ := hfits
    simp only [tickBlock]
    split
    · exact h.goTo hq hd (by exact ⟨hi, by omega⟩) (ne_schedule_of_block hi) r.out
    · exact h.blockDone _
  | read j todo b =>
    rw [hp] at hfits
    obtain ⟨hi, hj⟩ := hfits
    simp only [tickRead]
    split
    · exact h.goTo hq hd (by exact ⟨hi, hj, Nat.zero_le _⟩) (ne_schedule_of_buffer hi) r.out
    · exact h.goTo hq hd (by exact ⟨hi, hj⟩) (ne_schedule_of_buffer hi) r.out
  | rounds j round l r' =>
    rw [hp] at hfits
    obtain ⟨hi, hj, -⟩ := hfits
    simp only [tickRounds]
    split
    · exact h.goTo hq hd (by exact ⟨hi, hj, by omega⟩) (ne_schedule_of_buffer hi) r.out
    · exact h.goTo hq hd (by exact ⟨hi, hj⟩) (ne_schedule_of_buffer hi) r.out
  | write j todo l r' =>
    rw [hp] at hfits
    obtain ⟨hi, hj⟩ := hfits
    simp only [tickWrite]
    split
    · exact h.goTo hq hd (progressFits_atBlock hi r.ops (j + 1)) (ne_schedule_of_buffer hi) r.out
    · exact h.goTo hq hd (by exact ⟨hi, hj⟩) (ne_schedule_of_buffer hi) _
  | tail toRead toWrite =>
    rw [hp] at hfits
    simp only [tickTail]
    split
    · exact h.bufferDone _ _ (commit_wf h.memory _)
    · exact h.goTo hq hd (by exact hfits) (ne_schedule_of_buffer hfits) r.out
    · exact h.goTo hq hd (by exact hfits) (ne_schedule_of_buffer hfits) _

theorem Inv.tick {s : State} {r : Run} (h : Inv s) (hq : s.seq = .busy r) (pick : Nat) : Inv (s.tick pick) := by
  unfold State.tick
  rw [hq]
  dsimp only
  split
  · exact h.complete _
  · split
    · exact h.bufferFailed _
    · exact h.tickProgress hq ‹_› pick

end Sys2Proof.Safety

namespace Sys2Proof.Machine

/-- `step_cases` with both of its alternatives in one form: with no event left, none is taken from the list. -/
theorem stepCase_of_step {s t : State} (h : step s = .next t) : ∃ rest, StepCase s.inputs { s with inputs := rest } t := by
  rcases step_cases h with ⟨-, hc⟩ | ⟨_, rest, -, hc⟩
  · exact ⟨s.inputs, hc⟩
  · exact ⟨rest, hc⟩

end Sys2Proof.Machine

open Sys2Proof Sys2Proof.Machine Sys2Proof.Safety in
/-- Settles O55: each thing a step can do keeps the invariant. -/
theorem stepKeepsTheInvariant : Obligations.StepKeepsTheInvariant := by
  intro s t hs hstep
  obtain ⟨rest, hc⟩ := stepCase_of_step hstep
  have h := hs.withInputs rest
  cases hc with
  | answered x e => exact e ▸ h.withUnread _ _ x
  | observed x _ e => exact e ▸ h.withoutOwed.withUnread _ _ x
  | nothing e => exact e ▸ h
  | register r v _ _ e => exact e ▸ (h.writeReg r v).withUnread _ _ .written
  | store a b _ _ e => exact e ▸ h.hostStore a b
  | copies c hp hw e => exact e ▸ h.withCache hp (hw h.copies)
  | clean a b _ _ _ _ e => exact e ▸ h.arrive a.toNat b
  | reset _ _ e => exact e ▸ h.resetInput
  | tick r pick hq e => exact e ▸ h.tick hq pick
  | run r i _ _ e => exact h.exec e
  | illegal r _ _ _ e => exact e ▸ h.complete .illegalCmd
end

section
/-! The registers of the CSR port, read and written (10_state R31 to R49), the step that runs the latched command (R56) and the
values after reset (R61): settles O5 to O12, O14 to O16, O46 and O54. -/

namespace Sys2Proof.Machine

/-! ## A step that handles an access to a register -/

theorem step_csrRead {s : State} {r : Reg} {rest : List Event}
    (hi : s.inputs = .csrRead (s.platform.base + regOffset r) 4 :: rest) :
    step s = .next ((State.afterRead { s with inputs := rest } r).respond (.data (s.readReg r))) := by
  have hread := csrRead_register { s with inputs := rest } (regOffset_lt r).1 (regOffset_lt r).2 (regAt_regOffset r)
  rw [step_of_event hi]
  exact congrArg Host.Outcome.next hread

/-- A STATUS read that returns DONE = 1 or BUSY = 0 observes the completions (20_memory R92). -/
theorem afterRead_status (s : State) :
    s.afterRead .status = { s with unobserved := if s.done || !s.busy then [] else s.unobserved } := by
  rw [State.afterRead, if_pos rfl, State.observe]
  split <;> rfl

/-- Only a STATUS read does more than answer. -/
theorem step_csrRead_of_ne {s : State} {r : Reg} {rest : List Event} (hr : r ≠ .status)
    (hi : s.inputs = .csrRead (s.platform.base + regOffset r) 4 :: rest) :
    step s = .next { s with inputs := rest, response := .data (s.readReg r) } := by
  rw [step_csrRead hi, State.afterRead, if_neg hr]
  rfl

theorem step_csrWrite {s : State} {r : Reg} {v : Word} {rest : List Event}
    (hi : s.inputs = .csrWrite (s.platform.base + regOffset r) 4 v :: rest) :
    step s = .next ((State.writeReg { s with inputs := rest } r v).respond .written) := by
  have hwrite := csrWrite_register { s with inputs := rest } v (regOffset_lt r).1 (regOffset_lt r).2 (regAt_regOffset r)
  rw [step_of_event hi]
  exact congrArg Host.Outcome.next hwrite

/-- A write that BUSY blocks is taken by an idle machine. -/
theorem step_csrWrite_of_idle {s taken : State} {r : Reg} {v : Word} {rest : List Event} (hq : s.seq = .idle)
    (hi : s.inputs = .csrWrite (s.platform.base + regOffset r) 4 v :: rest)
    (hw : State.writeReg { s with inputs := rest } r v = State.unlessBusy { s with inputs := rest } taken) :
    step s = .next (taken.respond .written) := by
  have hb : State.busy { s with inputs := rest } = false := State.busy_eq_false.mpr hq
  rw [step_csrWrite hi, hw, State.unlessBusy, hb]
  rfl

/-- A write that BUSY blocks is ignored by a BUSY machine, but for OVR. -/
theorem step_csrWrite_of_busy {s taken : State} {q : Run} {r : Reg} {v : Word} {rest : List Event} (hq : s.seq = .busy q)
    (hi : s.inputs = .csrWrite (s.platform.base + regOffset r) 4 v :: rest)
    (hw : State.writeReg { s with inputs := rest } r v = State.unlessBusy { s with inputs := rest } taken) :
    step s = .next { s with ovr := true, inputs := rest, response := .written } := by
  have hb : State.busy { s with inputs := rest } = true := State.busy_eq_true.mpr ⟨q, hq⟩
  rw [step_csrWrite hi, hw, State.unlessBusy, hb]
  rfl

theorem step_ctrlWrite {s : State} {v : Word} {rest : List Event}
    (hi : s.inputs = .csrWrite (s.platform.base + 0x004) 4 v :: rest) :
    step s = .next { s with ie := v.getLsbD 0, inputs := rest, response := .written } :=
  step_csrWrite (r := .ctrl) hi

theorem and_not_eq_ite (a b : Bool) : (a && !b) = if b then false else a := by
  cases b <;> simp

theorem step_statusWrite {s : State} {v : Word} {rest : List Event}
    (hi : s.inputs = .csrWrite (s.platform.base + 0x00C) 4 v :: rest) :
    step s = .next { s with
      done := if v.getLsbD 1 then false else s.done
      ovr := if v.getLsbD 3 then false else s.ovr
      inputs := rest
      response := .written } := by
  rw [step_csrWrite (r := .status) hi, ← and_not_eq_ite s.done, ← and_not_eq_ite s.ovr]
  rfl

theorem step_reservedRead {s : State} {offset : Nat} {rest : List Event} (h4 : offset % 4 = 0)
    (hr : (0x028 ≤ offset ∧ offset ≤ 0x03C) ∨ (0x088 ≤ offset ∧ offset ≤ 0x0FC))
    (hi : s.inputs = .csrRead (s.platform.base + offset) 4 :: rest) :
    step s = .next { s with inputs := rest, response := .data 0#32 } := by
  have hread := csrRead_reserved { s with inputs := rest } (by omega) h4 (regAt_reserved hr)
  rw [step_of_event hi]
  exact congrArg Host.Outcome.next hread

theorem step_reservedWrite {s : State} {offset : Nat} {v : Word} {rest : List Event} (h4 : offset % 4 = 0)
    (hr : (0x028 ≤ offset ∧ offset ≤ 0x03C) ∨ (0x088 ≤ offset ∧ offset ≤ 0x0FC))
    (hi : s.inputs = .csrWrite (s.platform.base + offset) 4 v :: rest) :
    step s = .next { s with inputs := rest, response := .written } := by
  have hwrite := csrWrite_reserved { s with inputs := rest } v (by omega) h4 (regAt_reserved hr)
  rw [step_of_event hi]
  exact congrArg Host.Outcome.next hwrite

/-! ## What the registers' words hold -/

theorem ctrlWord_eq_ite (s : State) : s.ctrlWord = if s.ie then 1#32 else 0#32 := by
  unfold State.ctrlWord
  cases s.ie <;> rfl

/-- The fields of STATUS, each at its place (10_state R35). -/
theorem statusWord_fields (s : State) :
    s.statusWord.getLsbD 0 = s.busy ∧ s.statusWord.getLsbD 1 = s.done ∧ s.statusWord.getLsbD 2 = s.keyed ∧
      s.statusWord.getLsbD 3 = s.ovr ∧ s.statusWord.extractLsb' 4 4 = 0#4 ∧
      s.statusWord.extractLsb' 8 4 = s.err.code ∧ s.statusWord.extractLsb' 12 20 = 0#20 := by
  unfold State.statusWord
  generalize s.busy = busy, s.done = done, s.keyed = keyed, s.ovr = ovr, s.err.code = code
  revert busy done keyed ovr code
  decide

/-- SCHEDULE has one command word (30_encoding R114). -/
theorem decode_eq_schedule {w : Word} : decode w = .ok .schedule ↔ w = 0x00000001#32 := by
  constructor
  · intro h
    unfold decode at h
    split at h
    · cases h
    · rename_i hrsv
      have hrsv : w.toNat / 16 = 0 := by
        rw [← rsvField_toNat, not_not.mp hrsv]
        rfl
      split at h
      · rename_i hop
        have hop : w.toNat % 16 = 1 := by
          rw [← opField_toNat, hop]
          rfl
        exact BitVec.eq_of_toNat_eq (show w.toNat = 1 by omega)
      · repeat' split at h
        all_goals cases h
  · rintro rfl
    decide

theorem keyed_and_not_isSchedule (keyed : Bool) (w : Word) :
    (keyed && !isSchedule w) = if w = 0x00000001#32 then false else keyed := by
  have hw : isSchedule w = true ↔ w = 0x00000001#32 := (isSchedule_iff w).trans decode_eq_schedule
  rw [and_not_eq_ite]
  exact if_congr hw rfl rfl

theorem decode_encode (i : Instr) : decode (encode i) = .ok i := by
  cases i <;> decide

/-! ## What every completion does -/

/-- The command is over (DONE = 1, BUSY = 0), and IE, KEYED, OVR, P and S are as they were. -/
structure Ended (s t : State) : Prop where
  done : t.done = true
  idle : t.seq = .idle
  ie : t.ie = s.ie
  keyed : t.keyed = s.keyed
  ovr : t.ovr = s.ovr
  cipher : t.cipher = s.cipher

theorem complete_ended (s : State) (code : ErrCode) : Ended s (s.complete code) := ⟨rfl, rfl, rfl, rfl, rfl, rfl⟩

theorem blockDone_ended (s : State) (lr : Word × Word) : Ended s (s.blockDone lr) := ⟨rfl, rfl, rfl, rfl, rfl, rfl⟩

theorem bufferFailed_ended (s : State) (o : Operands) : Ended s (s.bufferFailed o) := ⟨rfl, rfl, rfl, rfl, rfl, rfl⟩

theorem bufferDone_ended (s : State) (o : Operands) (raced : List Nat) (m : Memory) : Ended s (s.bufferDone o raced m) := by
  constructor <;> simp

/-- How a command's meaning ends: SCHEDULE refused, SCHEDULE with the tables of the latched key, or another command, which leaves
KEYED, P and S. -/
theorem exec_ends {i : Instr} {s t : State} (h : exec i s = .next t) :
    (i = .schedule ∧ t = s.scheduleFailed) ∨
      (i = .schedule ∧
        t = s.scheduleDone (scheduleTables s.operands.key (sKeylen s.operands.keylen).toNat)) ∨
      (i ≠ .schedule ∧ Ended s t) := by
  rcases exec_cases i s with ⟨hi, e⟩ | ⟨hi, -, e⟩ | ⟨hi, code, e⟩ | ⟨hi, -, lr, e⟩ | ⟨hi, -, e | ⟨m, e⟩⟩ <;>
    cases e.symm.trans h
  · exact .inl ⟨hi, rfl⟩
  · exact .inr (.inl ⟨hi, rfl⟩)
  · exact .inr (.inr ⟨hi, complete_ended s code⟩)
  · exact .inr (.inr ⟨Safety.ne_schedule_of_block hi, blockDone_ended s lr⟩)
  · exact .inr (.inr ⟨Safety.ne_schedule_of_buffer hi, bufferFailed_ended s _⟩)
  · exact .inr (.inr ⟨Safety.ne_schedule_of_buffer hi, bufferDone_ended s _ _ m⟩)

end Sys2Proof.Machine

open Sys2Proof Sys2Proof.Machine Sys2Proof.Safety

/-- Settles O5: the bytes of a word are its fields, the first the most significant. -/
theorem keyBytesAreBigEndianInTheKeyRegisters : Obligations.KeyBytesAreBigEndianInTheKeyRegisters := by
  intro key n h
  rw [keyByte, Vector.getElem?_eq_getElem (by omega), Option.getD_some, unbe32_toNat]

/-- Settles O6: a read of each register but STATUS. -/
theorem csrReadsReturnTheRegisters : Obligations.CsrReadsReturnTheRegisters := by
  intro s offset v rest h hi
  rcases h with ⟨rfl, rfl⟩ | ⟨rfl, rfl⟩ | ⟨rfl, rfl⟩ | ⟨rfl, rfl⟩ | ⟨rfl, rfl⟩ | ⟨rfl, rfl⟩ | ⟨rfl, rfl⟩ | ⟨rfl, rfl⟩ |
    ⟨rfl, rfl⟩ | ⟨j, rfl, rfl⟩
  · exact step_csrRead_of_ne (r := .id) nofun hi
  · rw [← ctrlWord_eq_ite]
    exact step_csrRead_of_ne (r := .ctrl) nofun hi
  · exact step_csrRead_of_ne (r := .cmd) nofun hi
  · exact step_csrRead_of_ne (r := .keylen) nofun hi
  · exact step_csrRead_of_ne (r := .src) nofun hi
  · exact step_csrRead_of_ne (r := .dst) nofun hi
  · exact step_csrRead_of_ne (r := .len) nofun hi
  · exact step_csrRead_of_ne (r := .blkL) nofun hi
  · exact step_csrRead_of_ne (r := .blkR) nofun hi
  · exact step_csrRead_of_ne (r := .key j) nofun hi

/-- Settles O7: the fields of the word a read returns, and which reads observe. -/
theorem statusRegister : Obligations.StatusRegister := by
  refine ⟨by decide, fun s rest hi => ?_, fun s v rest hi => step_statusWrite hi⟩
  have hfields := statusWord_fields s
  refine ⟨s.statusWord, ?_, hfields⟩
  obtain ⟨hbusy, hdone, -⟩ := hfields
  have hobserves : (s.done || !s.busy) = true ↔ s.statusWord.getLsbD 1 = true ∨ s.statusWord.getLsbD 0 = false := by
    rw [hbusy, hdone, Bool.or_eq_true, Bool.not_eq_true']
  rw [step_csrRead (r := .status) hi, afterRead_status]
  simp only [← hobserves]
  rfl

/-- Settles O8: CTRL's word and its write, which BUSY does not block. -/
theorem ctrlRegister : Obligations.CtrlRegister := by
  refine ⟨rfl, fun s rest hi => ⟨s.ctrlWord, step_csrRead_of_ne (r := .ctrl) nofun hi, ?_⟩,
    fun s v rest hi => step_ctrlWrite hi⟩
  rw [ctrlWord_eq_ite]
  cases s.ie <;> decide

/-- Settles O9: a read and a write of ID. -/
theorem idRegister : Obligations.IdRegister :=
  ⟨fun _ _ hi => step_csrRead_of_ne (r := .id) nofun hi, fun _ _ _ hi => step_csrWrite (r := .id) hi⟩

/-- Settles O10: each operand register's write is one that BUSY blocks and an idle machine takes. -/
theorem operandWritesWhenIdle : Obligations.OperandWritesWhenIdle := by
  intro s v rest hq
  have key (j : Fin 18) (hi : s.inputs = .csrWrite (s.platform.base + 0x040 + 4 * j.val) 4 v :: rest) :
      s.inputs = .csrWrite (s.platform.base + regOffset (.key j)) 4 v :: rest := by
    rw [hi, Nat.add_assoc]
    rfl
  exact ⟨fun hi => step_csrWrite_of_idle (r := .keylen) hq hi rfl,
    fun hi => step_csrWrite_of_idle (r := .src) hq hi rfl,
    fun hi => step_csrWrite_of_idle (r := .dst) hq hi rfl,
    fun hi => step_csrWrite_of_idle (r := .len) hq hi rfl,
    fun hi => step_csrWrite_of_idle (r := .blkL) hq hi rfl,
    fun hi => step_csrWrite_of_idle (r := .blkR) hq hi rfl,
    fun j hi => step_csrWrite_of_idle (r := .key j) hq (key j hi) rfl⟩

/-- Settles O11: the writes that BUSY blocks, and those it does not. -/
theorem writesWhileBusy : Obligations.WritesWhileBusy := by
  intro s r v offset rest hq hi
  refine ⟨fun hoffset => ?_, ?_, ?_, fun h4 hr => step_reservedWrite h4 hr hi⟩
  · simp only [List.mem_cons, List.not_mem_nil, or_false] at hoffset
    rcases hoffset with (rfl | rfl | rfl | rfl | rfl | rfl | rfl) | ⟨j, rfl⟩
    · exact step_csrWrite_of_busy (r := .cmd) hq hi rfl
    · exact step_csrWrite_of_busy (r := .keylen) hq hi rfl
    · exact step_csrWrite_of_busy (r := .src) hq hi rfl
    · exact step_csrWrite_of_busy (r := .dst) hq hi rfl
    · exact step_csrWrite_of_busy (r := .len) hq hi rfl
    · exact step_csrWrite_of_busy (r := .blkL) hq hi rfl
    · exact step_csrWrite_of_busy (r := .blkR) hq hi rfl
    · exact step_csrWrite_of_busy (r := .key j) hq hi rfl
  · rintro rfl
    exact step_ctrlWrite hi
  · rintro rfl
    exact step_statusWrite hi

/-- Settles O12. -/
theorem reservedOffsets : Obligations.ReservedOffsets :=
  fun _ _ _ _ h4 hr => ⟨step_reservedRead h4 hr, step_reservedWrite h4 hr⟩

/-- Settles O14: an idle machine takes the CMD write, and SCHEDULE's word is 0x00000001. -/
theorem cmdWriteAccepts : Obligations.CmdWriteAccepts := by
  intro s w rest hq hi
  rw [← keyed_and_not_isSchedule]
  exact step_csrWrite_of_idle (r := .cmd) hq hi rfl

/-- Settles O15: what completions and the writes of STATUS and CTRL do to DONE and IE. -/
theorem irqLevel : Obligations.IrqLevel := by
  refine ⟨rfl, fun s => Bool.and_eq_true_iff, fun i s t h => ?_, fun s t v rest hi hv h => ?_, fun s t v rest hi h => ?_⟩
  · rcases exec_ends h with ⟨-, rfl⟩ | ⟨-, rfl⟩ | ⟨-, hended⟩
    · exact Bool.and_true _
    · exact Bool.and_true _
    · rw [State.irq, hended.done, hended.ie, Bool.and_true]
  · cases (step_statusWrite hi).symm.trans h
    simp [State.irq, hv]
  · cases (step_ctrlWrite hi).symm.trans h
    exact ⟨rfl, rfl⟩

/-- Settles O16: the engine's move, by the sequencer's mode and the latched word. -/
theorem stepRunsTheLatchedCommand : Obligations.StepRunsTheLatchedCommand := by
  have busy {s : State} {r : Run} {i : Instr} (hq : s.seq = .busy r) (hd : decode r.word = .ok i) :
      engineRun s = exec i s := by
    simp only [engineRun, hq, hd]
  refine ⟨fun s r i hq hd hi => ?_, fun s r i rest hq hd hi => ?_, fun s hq hi => ?_, fun s i => ?_⟩
  · rw [step_of_no_event hi, busy hq hd]
  · rw [step_of_event hi]
    exact busy (s := { s with inputs := rest }) hq hd
  · rw [step_of_no_event hi, engineRun, hq]
  · have hword : BitVec.ofNat 32 ((encode i).toNat % 2 ^ 32) = encode i := by
      rw [Nat.mod_eq_of_lt (encode i).isLt, BitVec.ofNat_toNat, BitVec.setWidth_eq]
    refine ⟨s.accept (encode i), ?_, rfl⟩
    rw [State.withFetchWord, hword]
    exact busy (s := s.accept (encode i)) rfl (decode_encode i)

/-- Settles O46. -/
theorem resetValues : Obligations.ResetValues := by
  refine ⟨fun r => ?_, rfl, rfl, rfl, rfl, rfl, rfl, rfl, rfl⟩
  cases r with
  | key j => exact Vector.getElem_replicate _
  | _ => rfl

/-- Settles O54: an idle machine with nothing in memory, caches or the record of completions. -/
theorem resetMeetsTheInvariant : Obligations.ResetMeetsTheInvariant :=
  ⟨inv_of_idle reset_wf rfl rfl rfl rfl nofun, ⟨reset_wf, nofun⟩, nofun⟩
end

section
/-! When BUSY, DONE, KEYED, OVR and the Cipher State change (10_state R36 to R39, R54): settles O24 and O56 to O59. -/

namespace Sys2Proof.Machine

open Sys2Proof.Safety

/-! ## A store changes no flag, and of the sequencer only the record of races -/

theorem spoil_noted (s : State) (o : Operands) (a : Nat) : Noted (fun _ => False) s.seq (s.spoil o a).seq := by
  unfold State.spoil
  split
  · exact (noted_noteStores _ _).mono nofun
  · exact Noted.refl nofun _

theorem spoilAll_noted (s : State) (a : Nat) (owed : List Completed) :
    Noted (fun _ => False) s.seq (s.spoilAll a owed).seq := by
  induction owed generalizing s with
  | nil => exact Noted.refl nofun _
  | cons d rest ih => exact (spoil_noted s d.ops a).trans (ih _) nofun

theorem storeRaces_noted {s : State} {q : Sequencer} (hq : s.seq = q) (a : Nat) :
    Noted (fun _ => False) q (s.storeRaces a).seq := by
  subst hq
  exact (noted_noteStore s.seq a).trans (spoilAll_noted { s with seq := s.seq.noteStore a } a s.unobserved) nofun

/-- The flags, P and S are as they were, and so is the sequencer but for races it may note. -/
structure ControlKept (s t : State) : Prop where
  done : t.done = s.done
  keyed : t.keyed = s.keyed
  ovr : t.ovr = s.ovr
  cipher : t.cipher = s.cipher
  seq : Noted (fun _ => False) s.seq t.seq

theorem arrive_controlKept (s : State) (a : Nat) (b : Byte) : ControlKept s (s.arrive a b) := by
  have hseq : Noted (fun _ => False) s.seq (s.arrive a b).seq := by
    refine storeRaces_noted ?_ a
    rfl
  obtain ⟨m, n, q, e, -⟩ := arrive_cases s a b
  rw [e] at hseq ⊢
  exact ⟨rfl, rfl, rfl, rfl, hseq⟩

theorem keep_controlKept (s : State) (a : Nat) (b : Byte) : ControlKept s (s.keep a b) := by
  have hseq : Noted (fun _ => False) s.seq (s.keep a b).seq := by
    refine storeRaces_noted ?_ a
    rfl
  obtain ⟨m, n, q, e, -⟩ := keep_cases s a b
  rw [e] at hseq ⊢
  exact ⟨rfl, rfl, rfl, rfl, hseq⟩

theorem hostStore_controlKept (s : State) (a : Word) (b : Byte) : ControlKept s (s.hostStore a b) := by
  rcases hostStore_cases s a b with ⟨-, e⟩ | ⟨-, e⟩ <;> rw [e]
  · exact { arrive_controlKept s a.toNat b with }
  · exact { keep_controlKept s a.toNat b with }

theorem controlKept_of_eq {s t : State} (hd : t.done = s.done) (hk : t.keyed = s.keyed) (ho : t.ovr = s.ovr)
    (hc : t.cipher = s.cipher) (hq : t.seq = s.seq) : ControlKept s t :=
  ⟨hd, hk, ho, hc, hq ▸ Noted.refl nofun _⟩

theorem ControlKept.busy {s t : State} (h : ControlKept s t) : t.busy = s.busy := by
  cases hs : s.seq with
  | idle => rw [State.busy_idle t (h.seq.1 hs), State.busy_idle s hs]
  | busy r =>
    obtain ⟨l, ht, -⟩ := h.seq.2 r hs
    rw [State.busy_busy t _ ht, State.busy_busy s r hs]

/-! ## Everything a step can do to the flags, the sequencer's mode and the Cipher State -/

/-- The offsets of CMD and the operand registers, whose writes BUSY blocks (10_state R49). -/
def blockedOffset (offset : Nat) : Prop :=
  offset ∈ [0x008, 0x010, 0x014, 0x018, 0x01C, 0x020, 0x024] ∨ ∃ j : Fin 18, offset = 0x040 + 4 * j.val

/-- What one step can do to the flags, the sequencer's mode, P and S; `StepCase` says the rest. `s` is the state without the event
that is handled. -/
inductive ControlCase (inputs : List Event) (s t : State) : Prop where
  /-- Nothing. -/
  | kept (h : ControlKept s t)
  /-- A STATUS write clears DONE and OVR. -/
  | status (v : Word) (rest : List Event) (hi : inputs = .csrWrite (s.platform.base + 0x00C) 4 v :: rest)
      (h : t = (s.writeStatus v).respond .written)
  /-- A CMD write while idle is accepted. -/
  | accepted (v : Word) (rest : List Event) (hi : inputs = .csrWrite (s.platform.base + 0x008) 4 v :: rest)
      (hq : s.busy = false) (h : t = (s.accept v).respond .written)
  /-- A write is ignored because of BUSY. -/
  | ignored (offset : Nat) (v : Word) (rest : List Event) (hi : inputs = .csrWrite (s.platform.base + offset) 4 v :: rest)
      (ho : blockedOffset offset) (hq : s.busy = true) (h : t = { s with ovr := true, response := .written })
  /-- The reset input. -/
  | reset (rest : List Event) (hi : inputs = .reset :: rest) (h : t = s.resetInput)
  /-- A micro-step after which the command still runs; P and S change only in SCHEDULE. -/
  | goesOn (r : Run) (p : Progress) (out : List Host.Cell) (c : CipherState) (hq : s.seq = .busy r)
      (h : t = { s with cipher := c, seq := .busy { r with progress := p, out := out } })
      (hc : c = s.cipher ∨ decode r.word = .ok .schedule ∨ ∃ n round l h, r.progress = .sched n round l h)
  /-- A completion that leaves KEYED, P and S. -/
  | ended (r : Run) (hq : s.seq = .busy r) (h : Ended s t)
  /-- A SCHEDULE is refused. -/
  | refused (r : Run) (hq : s.seq = .busy r) (hd : decode r.word = .ok .schedule) (h : t = s.scheduleFailed)
  /-- A SCHEDULE is run whole, with OK. -/
  | scheduled (r : Run) (hq : s.seq = .busy r) (hd : decode r.word = .ok .schedule)
      (h : t = s.scheduleDone (scheduleTables r.ops.key (sKeylen r.ops.keylen).toNat))
  /-- The last micro-step of a SCHEDULE's encryptions. -/
  | lastRound (r : Run) (pick : Nat) (c : CipherState) (hq : s.seq = .busy r)
      (hp : ∃ n round l h, r.progress = .sched n round l h) (h : s.tick pick = s.scheduleDone c) (ht : t = s.tick pick)

theorem unlessBusy_cases (s taken : State) :
    (s.busy = false ∧ s.unlessBusy taken = taken) ∨ (s.busy = true ∧ s.unlessBusy taken = { s with ovr := true }) := by
  unfold State.unlessBusy
  cases hb : s.busy
  · exact .inl ⟨rfl, rfl⟩
  · exact .inr ⟨rfl, rfl⟩

theorem controlCase_of_register {inputs rest : List Event} {s : State} {r : Reg} {v : Word}
    (hi : inputs = .csrWrite (s.platform.base + regOffset r) 4 v :: rest) :
    ControlCase inputs s ((s.writeReg r v).respond .written) := by
  have operand {taken : State} (ho : blockedOffset (regOffset r))
      (hk : s.busy = false → ControlCase inputs s (taken.respond .written)) :
      ControlCase inputs s ((s.unlessBusy taken).respond .written) := by
    rcases unlessBusy_cases s taken with ⟨hb, e⟩ | ⟨hb, e⟩
    · rw [e]
      exact hk hb
    · exact .ignored _ v rest hi ho hb (by rw [e]; rfl)
  cases r with
  | id => exact .kept (controlKept_of_eq rfl rfl rfl rfl rfl)
  | ctrl => exact .kept (controlKept_of_eq rfl rfl rfl rfl rfl)
  | status => exact .status v rest hi rfl
  | cmd => exact operand (.inl (by decide)) fun hb => .accepted v rest hi hb rfl
  | keylen => exact operand (.inl (by decide)) fun _ => .kept (controlKept_of_eq rfl rfl rfl rfl rfl)
  | src => exact operand (.inl (by decide)) fun _ => .kept (controlKept_of_eq rfl rfl rfl rfl rfl)
  | dst => exact operand (.inl (by decide)) fun _ => .kept (controlKept_of_eq rfl rfl rfl rfl rfl)
  | len => exact operand (.inl (by decide)) fun _ => .kept (controlKept_of_eq rfl rfl rfl rfl rfl)
  | blkL => exact operand (.inl (by decide)) fun _ => .kept (controlKept_of_eq rfl rfl rfl rfl rfl)
  | blkR => exact operand (.inl (by decide)) fun _ => .kept (controlKept_of_eq rfl rfl rfl rfl rfl)
  | key j => exact operand (.inr ⟨j, rfl⟩) fun _ => .kept (controlKept_of_eq rfl rfl rfl rfl rfl)

theorem controlCase_of_tick {inputs : List Event} {s : State} {r : Run} (pick : Nat) (hq : s.seq = .busy r) :
    ControlCase inputs s (s.tick pick) := by
  rcases tick_cases pick hq with ⟨p, out, c, e, hc⟩ | ⟨_, -, e⟩ | ⟨hd, -, e⟩ | ⟨hp, c, e⟩ | ⟨-, -, code, e⟩ | ⟨-, lr, e⟩ |
    ⟨-, e⟩ | ⟨-, e⟩
  · exact .goesOn r p out c hq e (hc.imp_right (Or.imp_left And.right))
  · exact .ended r hq (e ▸ complete_ended s .illegalCmd)
  · exact .refused r hq hd e
  · exact .lastRound r pick c hq hp e rfl
  · exact .ended r hq (e ▸ complete_ended s code)
  · exact .ended r hq (e ▸ blockDone_ended s lr)
  · exact .ended r hq (e ▸ bufferFailed_ended s r.ops)
  · exact .ended r hq (e ▸ bufferDone_ended s r.ops r.raced _)

theorem controlCase_of_exec {inputs : List Event} {s t : State} {r : Run} {i : Instr} (hq : s.seq = .busy r)
    (hd : decode r.word = .ok i) (h : exec i s = .next t) : ControlCase inputs s t := by
  rcases exec_ends h with ⟨rfl, e⟩ | ⟨rfl, e⟩ | ⟨-, e⟩
  · exact .refused r hq hd e
  · rw [State.operands_busy hq] at e
    exact .scheduled r hq hd e
  · exact .ended r hq e

theorem controlCase_of_step {s t : State} (h : step s = .next t) :
    ∃ rest, ControlCase s.inputs { s with inputs := rest } t := by
  obtain ⟨rest, hc⟩ := stepCase_of_step h
  refine ⟨rest, ?_⟩
  cases hc with
  | answered x e => exact .kept (e ▸ controlKept_of_eq rfl rfl rfl rfl rfl)
  | observed x _ e => exact .kept (e ▸ controlKept_of_eq rfl rfl rfl rfl rfl)
  | nothing e => exact .kept (e ▸ controlKept_of_eq rfl rfl rfl rfl rfl)
  | register r v _ hi e => exact e ▸ controlCase_of_register hi
  | store a b _ _ e => exact .kept (e ▸ hostStore_controlKept _ a b)
  | copies c _ _ e => exact .kept (e ▸ controlKept_of_eq rfl rfl rfl rfl rfl)
  | clean a b _ _ _ _ e => exact .kept (e ▸ arrive_controlKept _ a.toNat b)
  | reset rest' hi e => exact .reset rest' hi e
  | tick r pick hq e => exact e ▸ controlCase_of_tick pick hq
  | run r i hq hd e => exact controlCase_of_exec hq hd e
  | illegal r _ hq _ e => exact .ended r hq (e ▸ complete_ended _ .illegalCmd)

/-! ## The rise and fall of each -/

section

variable {inputs : List Event} {s t : State}

theorem Ended.busy (h : Ended s t) : t.busy = false := State.busy_eq_false.mpr h.idle

/-- BUSY rises by acceptance. -/
theorem ControlCase.busy_rises (h : ControlCase inputs s t) (hs : s.busy = false) (ht : t.busy = true) :
    ∃ v rest, inputs = .csrWrite (s.platform.base + 0x008) 4 v :: rest := by
  have running {r : Run} (hq : s.seq = .busy r) : False := by
    cases hs.symm.trans (State.busy_busy s r hq)
  cases h with
  | kept h => cases (h.busy.trans hs).symm.trans ht
  | status v rest _ e => subst e; cases hs.symm.trans ht
  | accepted v rest hi => exact ⟨v, rest, hi⟩
  | ignored _ _ _ _ _ hb => cases hs.symm.trans hb
  | reset _ _ e => subst e; cases ht
  | goesOn _ _ _ _ hq => exact (running hq).elim
  | ended _ hq => exact (running hq).elim
  | refused _ hq => exact (running hq).elim
  | scheduled _ hq => exact (running hq).elim
  | lastRound _ _ _ hq => exact (running hq).elim

/-- BUSY falls by completion, with DONE = 1, or by reset. -/
theorem ControlCase.busy_falls (h : ControlCase inputs s t) (hs : s.busy = true) (ht : t.busy = false) :
    t.done = true ∨ ∃ rest, inputs = .reset :: rest := by
  cases h with
  | kept h => cases (h.busy.trans hs).symm.trans ht
  | status _ _ _ e => subst e; cases hs.symm.trans ht
  | accepted _ _ _ hb => cases hs.symm.trans hb
  | ignored _ _ _ _ _ _ e => subst e; cases hs.symm.trans ht
  | reset rest hi => exact .inr ⟨rest, hi⟩
  | goesOn _ _ _ _ _ e => subst e; cases ht
  | ended _ _ h => exact .inl h.done
  | refused _ _ _ e => exact .inl (e ▸ rfl)
  | scheduled _ _ _ e => exact .inl (e ▸ rfl)
  | lastRound _ _ c _ _ e ht => exact .inl (by rw [ht, e]; rfl)

/-- A command that still runs keeps its latched word and operands. -/
theorem ControlCase.run_kept (h : ControlCase inputs s t) {r r' : Run} (hs : s.seq = .busy r) (ht : t.seq = .busy r') :
    r'.word = r.word ∧ r'.ops = r.ops := by
  cases h with
  | kept h =>
    obtain ⟨l, e, -⟩ := h.seq.2 r hs
    cases e.symm.trans ht
    exact ⟨rfl, rfl⟩
  | status _ _ _ e => subst e; cases hs.symm.trans ht; exact ⟨rfl, rfl⟩
  | accepted _ _ _ hb => cases hb.symm.trans (State.busy_busy s r hs)
  | ignored _ _ _ _ _ _ e => subst e; cases hs.symm.trans ht; exact ⟨rfl, rfl⟩
  | reset _ _ e => subst e; cases ht
  | goesOn _ _ _ _ hq e => subst e; cases hs.symm.trans hq; cases ht; exact ⟨rfl, rfl⟩
  | ended _ _ h => cases h.idle.symm.trans ht
  | refused _ _ _ e => subst e; cases ht
  | scheduled _ _ _ e => subst e; cases ht
  | lastRound _ _ _ _ _ e e' => rw [e', e] at ht; cases ht

/-- DONE rises by completion. -/
theorem ControlCase.done_rises (h : ControlCase inputs s t) (hs : s.done = false) (ht : t.done = true) :
    s.busy = true ∧ t.busy = false := by
  cases h with
  | kept h => cases (h.done.trans hs).symm.trans ht
  | status v _ _ e => subst e; cases (congrArg (· && !v.getLsbD 1) hs).symm.trans ht
  | accepted _ _ _ _ e => subst e; cases ht
  | ignored _ _ _ _ _ _ e => subst e; cases hs.symm.trans ht
  | reset _ _ e => subst e; cases ht
  | goesOn _ _ _ _ _ e => subst e; cases hs.symm.trans ht
  | ended r hq h => exact ⟨State.busy_busy s r hq, h.busy⟩
  | refused r hq _ e => exact ⟨State.busy_busy s r hq, e ▸ rfl⟩
  | scheduled r hq _ e => exact ⟨State.busy_busy s r hq, e ▸ rfl⟩
  | lastRound r _ _ hq _ e e' => exact ⟨State.busy_busy s r hq, by rw [e', e]; rfl⟩

/-- DONE falls by acceptance, by a STATUS write with bit 1 set, or by reset. -/
theorem ControlCase.done_falls (h : ControlCase inputs s t) (hs : s.done = true) (ht : t.done = false) :
    (s.busy = false ∧ t.busy = true) ∨
      (∃ v rest, inputs = .csrWrite (s.platform.base + 0x00C) 4 v :: rest ∧ v.getLsbD 1 = true) ∨
      ∃ rest, inputs = .reset :: rest := by
  cases h with
  | kept h => cases (h.done.trans hs).symm.trans ht
  | status v rest hi e =>
    subst e
    refine .inr (.inl ⟨v, rest, hi, ?_⟩)
    simpa [hs] using ht
  | accepted v rest _ hb e => exact .inl ⟨hb, e ▸ rfl⟩
  | ignored _ _ _ _ _ _ e => subst e; cases hs.symm.trans ht
  | reset rest hi => exact .inr (.inr ⟨rest, hi⟩)
  | goesOn _ _ _ _ _ e => subst e; cases hs.symm.trans ht
  | ended _ _ h => cases h.done.symm.trans ht
  | refused _ _ _ e => subst e; cases ht
  | scheduled _ _ _ e => subst e; cases ht
  | lastRound _ _ _ _ _ e e' => rw [e', e] at ht; cases ht

/-- OVR rises by a write that BUSY makes ignored. -/
theorem ControlCase.ovr_rises (h : ControlCase inputs s t) (hs : s.ovr = false) (ht : t.ovr = true) :
    s.busy = true ∧ ∃ offset v rest, inputs = .csrWrite (s.platform.base + offset) 4 v :: rest ∧ blockedOffset offset := by
  cases h with
  | kept h => cases (h.ovr.trans hs).symm.trans ht
  | status v _ _ e => subst e; cases (congrArg (· && !v.getLsbD 3) hs).symm.trans ht
  | accepted _ _ _ _ e => subst e; cases hs.symm.trans ht
  | ignored offset v rest hi ho hb => exact ⟨hb, offset, v, rest, hi, ho⟩
  | reset _ _ e => subst e; cases ht
  | goesOn _ _ _ _ _ e => subst e; cases hs.symm.trans ht
  | ended _ _ h => cases (h.ovr.trans hs).symm.trans ht
  | refused _ _ _ e => subst e; cases hs.symm.trans ht
  | scheduled _ _ _ e => subst e; cases hs.symm.trans ht
  | lastRound _ _ _ _ _ e e' => rw [e', e] at ht; cases hs.symm.trans ht

/-- OVR falls by a STATUS write with bit 3 set, or by reset. -/
theorem ControlCase.ovr_falls (h : ControlCase inputs s t) (hs : s.ovr = true) (ht : t.ovr = false) :
    (∃ v rest, inputs = .csrWrite (s.platform.base + 0x00C) 4 v :: rest ∧ v.getLsbD 3 = true) ∨
      ∃ rest, inputs = .reset :: rest := by
  cases h with
  | kept h => cases (h.ovr.trans hs).symm.trans ht
  | status v rest hi e =>
    subst e
    refine .inl ⟨v, rest, hi, ?_⟩
    simpa [hs] using ht
  | accepted _ _ _ _ e => subst e; cases hs.symm.trans ht
  | ignored _ _ _ _ _ _ e => subst e; cases ht
  | reset rest hi => exact .inr ⟨rest, hi⟩
  | goesOn _ _ _ _ _ e => subst e; cases hs.symm.trans ht
  | ended _ _ h => cases (h.ovr.trans hs).symm.trans ht
  | refused _ _ _ e => subst e; cases hs.symm.trans ht
  | scheduled _ _ _ e => subst e; cases hs.symm.trans ht
  | lastRound _ _ _ _ _ e e' => rw [e', e] at ht; cases hs.symm.trans ht

/-- A command in one of SCHEDULE's encryptions is a SCHEDULE. -/
theorem decode_of_sched {r : Run} (hf : RunFits r) (hp : ∃ n round l h, r.progress = .sched n round l h) :
    decode r.word = .ok .schedule := by
  obtain ⟨n, round, l, h, hp⟩ := hp
  cases hd : decode r.word with
  | error e =>
    rw [RunFits, hd, hp] at hf
    cases hf
  | ok i =>
    rw [runFits_iff hd, hp] at hf
    rw [hf.1]

/-- P and S change by reset and in a running SCHEDULE. -/
theorem ControlCase.cipher_changes (h : ControlCase inputs s t) (hf : ∀ r, s.seq = .busy r → RunFits r)
    (hc : t.cipher ≠ s.cipher) :
    (∃ rest, inputs = .reset :: rest) ∨ ∃ r, s.seq = .busy r ∧ decode r.word = .ok .schedule := by
  cases h with
  | kept h => exact absurd h.cipher hc
  | status _ _ _ e => exact absurd (e ▸ rfl) hc
  | accepted _ _ _ _ e => exact absurd (e ▸ rfl) hc
  | ignored _ _ _ _ _ _ e => exact absurd (e ▸ rfl) hc
  | reset rest hi => exact .inl ⟨rest, hi⟩
  | goesOn r p out c hq e hcipher =>
    rcases hcipher with rfl | hd | hp
    · exact absurd (e ▸ rfl) hc
    · exact .inr ⟨r, hq, hd⟩
    · exact .inr ⟨r, hq, decode_of_sched (hf r hq) hp⟩
  | ended _ _ h => exact absurd h.cipher hc
  | refused r hq hd => exact .inr ⟨r, hq, hd⟩
  | scheduled r hq hd => exact .inr ⟨r, hq, hd⟩
  | lastRound r _ _ hq hp => exact .inr ⟨r, hq, decode_of_sched (hf r hq) hp⟩

/-- The micro-step that ends a SCHEDULE's encryptions leaves the tables of the key. -/
theorem lastRound_tables {r : Run} {pick : Nat} {c : CipherState} (hinv : Inv s) (hq : s.seq = .busy r)
    (hp : ∃ n round l h, r.progress = .sched n round l h) (h : s.tick pick = s.scheduleDone c) :
    c = scheduleTables r.ops.key (sKeylen r.ops.keylen).toNat := by
  have hd := decode_of_sched (hinv.fits r hq) hp
  have hfits := (runFits_iff hd).mp (hinv.fits r hq)
  have htables := hinv.tables r hq
  obtain ⟨n, round, l, r', hp⟩ := hp
  rw [hp] at hfits htables
  obtain ⟨-, hn, hround⟩ := hfits
  have htick : s.tick pick = tickSched n round (l, r') r s := by
    rw [tick_of_access hq hd (by rw [hp]; rfl), tickProgress, hp]
  rcases tickSched_cases hn hround htables with ⟨c', n', round', l', r'', e, -⟩ | e
  · cases (congrArg State.busy (h.symm.trans (htick.trans e)))
  · exact congrArg State.cipher (h.symm.trans (htick.trans e))

/-- KEYED rises by a SCHEDULE that completes with OK, over the tables of its key. -/
theorem ControlCase.keyed_rises (h : ControlCase inputs s t) (hinv : Inv s) (hs : s.keyed = false) (ht : t.keyed = true) :
    (∃ r, s.seq = .busy r ∧ decode r.word = .ok .schedule ∧
      t.cipher = scheduleTables r.ops.key (sKeylen r.ops.keylen).toNat) ∧ t.busy = false ∧ t.err = .ok := by
  cases h with
  | kept h => cases (h.keyed.trans hs).symm.trans ht
  | status _ _ _ e => subst e; cases hs.symm.trans ht
  | accepted v _ _ _ e => subst e; cases (congrArg (· && !isSchedule v) hs).symm.trans ht
  | ignored _ _ _ _ _ _ e => subst e; cases hs.symm.trans ht
  | reset _ _ e => subst e; cases ht
  | goesOn _ _ _ _ _ e => subst e; cases hs.symm.trans ht
  | ended _ _ h => cases (h.keyed.trans hs).symm.trans ht
  | refused _ _ _ e => subst e; cases ht
  | scheduled r hq hd e =>
    subst e
    exact ⟨⟨r, hq, hd, rfl⟩, rfl, rfl⟩
  | lastRound r pick c hq hp e e' =>
    rw [e', e]
    exact ⟨⟨r, hq, decode_of_sched (hinv.fits r hq) hp, lastRound_tables hinv hq hp e⟩, rfl, rfl⟩

/-- KEYED falls by reset or by the acceptance of SCHEDULE; a SCHEDULE that is refused found it 0. -/
theorem ControlCase.keyed_falls (h : ControlCase inputs s t) (hinv : Inv s) (hs : s.keyed = true) (ht : t.keyed = false) :
    (∃ rest, inputs = .reset :: rest) ∨
      ∃ rest, inputs = .csrWrite (s.platform.base + 0x008) 4 0x00000001#32 :: rest ∧ s.busy = false ∧ t.busy = true := by
  cases h with
  | kept h => cases (h.keyed.trans hs).symm.trans ht
  | status _ _ _ e => subst e; cases hs.symm.trans ht
  | accepted v rest hi hb e =>
    subst e
    have hv : isSchedule v = true := by simpa [hs] using ht
    rw [isSchedule_iff, decode_eq_schedule] at hv
    subst hv
    exact .inr ⟨rest, hi, hb, rfl⟩
  | ignored _ _ _ _ _ _ e => subst e; cases hs.symm.trans ht
  | reset rest hi => exact .inl ⟨rest, hi⟩
  | goesOn _ _ _ _ _ e => subst e; cases hs.symm.trans ht
  | ended _ _ h => cases (h.keyed.trans hs).symm.trans ht
  | refused r hq hd => cases (hinv.unkeyed r hq ((isSchedule_iff _).mpr hd)).symm.trans hs
  | scheduled _ _ _ e => subst e; cases ht
  | lastRound _ _ _ _ _ e e' => rw [e', e] at ht; cases ht

end

end Sys2Proof.Machine

open Sys2Proof Sys2Proof.Machine Sys2Proof.Safety

/-- Settles O24: no other command's ending changes P and S, and no other step's control case does. -/
theorem onlyScheduleWritesTheCipherState : Obligations.OnlyScheduleWritesTheCipherState := by
  constructor
  · intro i s t hi h
    rcases exec_ends h with ⟨rfl, -⟩ | ⟨rfl, -⟩ | ⟨-, hended⟩
    · exact absurd rfl hi
    · exact absurd rfl hi
    · exact hended.cipher
  · intro s t hf h hc
    obtain ⟨rest, hcase⟩ := controlCase_of_step h
    exact hcase.cipher_changes hf hc

/-- Settles O56. -/
theorem busyChanges : Obligations.BusyChanges := by
  intro s t h
  obtain ⟨rest, hcase⟩ := controlCase_of_step h
  exact ⟨hcase.busy_rises, hcase.busy_falls, fun r r' => hcase.run_kept⟩

/-- Settles O57: that a completion sets DONE is how BUSY falls. -/
theorem doneChanges : Obligations.DoneChanges := by
  intro s t h
  obtain ⟨rest, hcase⟩ := controlCase_of_step h
  refine ⟨hcase.done_rises, hcase.done_falls, fun hs ht hr => ?_⟩
  rcases hcase.busy_falls hs ht with hdone | ⟨rest', hi⟩
  · exact hdone
  · exact absurd hi (hr rest')

/-- Settles O58. -/
theorem keyedChanges : Obligations.KeyedChanges := by
  intro s t hinv h
  obtain ⟨rest, hcase⟩ := controlCase_of_step h
  exact ⟨hcase.keyed_rises (hinv.withInputs rest), hcase.keyed_falls (hinv.withInputs rest)⟩

/-- Settles O59. -/
theorem ovrChanges : Obligations.OvrChanges := by
  intro s t h
  obtain ⟨rest, hcase⟩ := controlCase_of_step h
  exact ⟨hcase.ovr_rises, hcase.ovr_falls⟩
end

section
/-! What a buffer command leaves in memory, run to its completion (20_memory R83, R93, 43_buffer_transform R182 to R189): settles O36
and O40. -/

namespace Sys2Proof.Machine

open Sys2Proof.Safety

/-! ## The iterator's two loops -/

/-- `len` bytes at `src` and at `dst` are the same bytes or share none (43_buffer_transform R187). -/
def Apart (src dst len : Nat) : Prop := src = dst ∨ src + len ≤ dst ∨ dst + len ≤ src

theorem Apart.mono {src dst len len' : Nat} (h : Apart src dst len) (hl : len' ≤ len) : Apart src dst len' := by
  unfold Apart at *
  omega

theorem apart_of_checksPass {keyed : Bool} {o : Operands} (h : ChecksPass keyed o) :
    Apart o.src.toNat o.dst.toNat o.len.toNat := by
  unfold Apart
  obtain ⟨-, h0 | ⟨-, -, he | h⟩⟩ := h
  · omega
  · exact .inl (congrArg BitVec.toNat he)
  · exact .inr h

/-- A source block is its eight bytes. -/
theorem sourceBlock_congr {m m' : Memory} {src j : Nat}
    (h : ∀ k, k < 8 → m.read (src + 8 * j + k) = m'.read (src + 8 * j + k)) : sourceBlock m src j = sourceBlock m' src j := by
  have h0 : m.read (src + 8 * j) = m'.read (src + 8 * j) := h 0 (by omega)
  simp only [sourceBlock, h0, h 1, h 2, h 3, h 4, h 5, h 6, h 7, Nat.reduceLT]

/-- The first `n` blocks that ran: block by block the transform of the source as it was, and every other byte is as it was. -/
theorem read_blocksOp {T : Word × Word → Word × Word} {p : Platform} {src dst n : Nat} {m m' : Memory} (hw : Memory.wf m)
    (ha : Apart src dst (8 * n)) (h : blocksOp T p src dst n m = some m') (x : Nat) :
    m'.read x = if dst ≤ x ∧ x < dst + 8 * n then blockByte (T (sourceBlock m src ((x - dst) / 8))) ((x - dst) % 8)
      else m.read x := by
  induction n generalizing m' x with
  | zero =>
    cases h
    rw [if_neg (by omega)]
  | succ n ih =>
    rw [blocksOp_succ, Option.bind_eq_some_iff] at h
    obtain ⟨m1, h1, h2⟩ := h
    have before := ih (ha.mono (by omega)) h1
    have source : sourceBlock m1 src n = sourceBlock m src n := sourceBlock_congr fun k hk => by
      unfold Apart at ha
      rw [before, if_neg (by omega)]
    obtain ⟨-, -, hread⟩ := blockOp_some (blocksOp_wf hw h1) h2
    rw [hread, source, before]
    by_cases hx : dst + 8 * n ≤ x ∧ x < dst + 8 * n + 8
    · rw [if_pos hx, if_pos (by omega), show (x - dst) / 8 = n by omega, show (x - dst) % 8 = x - (dst + 8 * n) by omega]
    · rw [if_neg hx]
      exact if_congr (by omega) rfl rfl

/-- Copied bytes: those of the source as it was, and every other byte is as it was. -/
theorem read_copyBytes {p : Platform} {src dst n : Nat} {m m' : Memory} (hw : Memory.wf m) (ha : Apart src dst n)
    (h : copyBytes p src dst n m = some m') (x : Nat) :
    m'.read x = if dst ≤ x ∧ x < dst + n then m.read (src + (x - dst)) else m.read x := by
  induction n generalizing m' x with
  | zero =>
    cases h
    rw [if_neg (by omega)]
  | succ n ih =>
    rw [copyBytes_succ, Option.bind_eq_some_iff] at h
    obtain ⟨m1, h1, h2⟩ := h
    have before := ih (ha.mono (by omega)) h1
    obtain ⟨-, -, rfl⟩ := copyByte_some.mp h2
    have source : m1.read (src + n) = m.read (src + n) := by
      unfold Apart at ha
      rw [before, if_neg (by omega)]
    rw [Memory.read_write (copyBytes_wf hw h1), source, before]
    by_cases hx : x = dst + n
    · rw [if_pos hx, if_pos (by omega), hx, Nat.add_sub_cancel_left]
    · rw [if_neg hx]
      exact if_congr (by omega) rfl rfl

theorem blocksOp_isSome {p : Platform} {src dst n : Nat}
    (h : ∀ off, off < 8 * n → p.busErr ⟨.read, src + off⟩ = false ∧ p.busErr ⟨.write, dst + off⟩ = false)
    (T : Word × Word → Word × Word) (m : Memory) : ∃ m', blocksOp T p src dst n m = some m' := by
  induction n with
  | zero => exact ⟨m, rfl⟩
  | succ n ih =>
    obtain ⟨m1, h1⟩ := ih fun off ho => h off (by omega)
    rw [blocksOp_succ, h1]
    refine blockOp_isSome (fun k hk => ?_) T m1
    rw [Nat.add_assoc, Nat.add_assoc]
    exact h (8 * n + k) (by omega)

theorem copyBytes_isSome {p : Platform} {src dst n : Nat}
    (h : ∀ off, off < n → p.busErr ⟨.read, src + off⟩ = false ∧ p.busErr ⟨.write, dst + off⟩ = false) (m : Memory) :
    ∃ m', copyBytes p src dst n m = some m' := by
  induction n with
  | zero => exact ⟨m, rfl⟩
  | succ n ih =>
    obtain ⟨m1, h1⟩ := ih fun off ho => h off (by omega)
    obtain ⟨hr, hwr⟩ := h n (by omega)
    rw [copyBytes_succ, h1]
    exact ⟨_, copyByte_some.mpr ⟨hr, hwr, rfl⟩⟩

/-! ## The whole buffer -/

/-- Memory `m'` is `m` with the bytes of 43_buffer_transform R189 in the destination. -/
structure HasResult (T : Word × Word → Word × Word) (o : Operands) (m m' : Memory) : Prop where
  dest : ∀ off, off < o.len.toNat → m'.read (o.dst.toNat + off) = resultByte T m o.src.toNat o.blocks off
  frame : ∀ a, o.inDest a = false → m'.read a = m.read a

theorem inDest_eq_false {o : Operands} {a : Nat} :
    o.inDest a = false ↔ a < o.dst.toNat ∨ o.dst.toNat + o.len.toNat ≤ a := by
  simp only [Operands.inDest, inRange, Bool.and_eq_false_iff, decide_eq_false_iff_not]
  omega

theorem inDest_eq_true {o : Operands} {a : Nat} :
    o.inDest a = true ↔ o.dst.toNat ≤ a ∧ a < o.dst.toNat + o.len.toNat := by
  simp only [Operands.inDest, inRange, Bool.and_eq_true, decide_eq_true_eq]

/-- Whole blocks and trailing bytes make up the buffer (43_buffer_transform R183). -/
theorem blocks_add_tail (o : Operands) : 8 * o.blocks + o.len.toNat % 8 = o.len.toNat := Nat.div_add_mod _ _

theorem bufferMemory_hasResult {T : Word × Word → Word × Word} {p : Platform} {o : Operands} {m m' : Memory}
    (hw : Memory.wf m) (ha : Apart o.src.toNat o.dst.toNat o.len.toNat) (h : bufferMemory T p o m = some m') :
    HasResult T o m m' := by
  have hlen := blocks_add_tail o
  simp only [bufferMemory, Option.bind_eq_bind, Option.bind_eq_some_iff] at h
  obtain ⟨m1, h1, h2⟩ := h
  have blocks := read_blocksOp hw (ha.mono (by omega)) h1
  split at h2
  · -- in place the trailing bytes stay where they are
    rename_i he
    cases h2
    refine ⟨fun off ho => ?_, fun a h => ?_⟩
    · rw [blocks, resultByte, Nat.add_sub_cancel_left, he]
      exact if_congr (by omega) rfl rfl
    · rw [inDest_eq_false] at h
      rw [blocks, if_neg (by omega)]
  · rename_i hne
    have hapart : o.src.toNat + o.len.toNat ≤ o.dst.toNat ∨ o.dst.toNat + o.len.toNat ≤ o.src.toNat :=
      ha.resolve_left fun he => hne (BitVec.eq_of_toNat_eq he)
    have tail := read_copyBytes (blocksOp_wf hw h1) (.inr (by omega)) h2
    refine ⟨fun off ho => ?_, fun a h => ?_⟩
    · rw [tail, resultByte]
      by_cases hb : off < 8 * o.blocks
      · rw [if_neg (by omega), if_pos hb, blocks, if_pos (by omega), Nat.add_sub_cancel_left]
      · rw [if_pos (by omega), if_neg hb, blocks, if_neg (by omega)]
        congr 1
        omega
    · rw [inDest_eq_false] at h
      rw [tail, if_neg (by omega), blocks, if_neg (by omega)]

theorem bufferMemory_isSome {p : Platform} {o : Operands} (h : BusClear p o) (T : Word × Word → Word × Word) (m : Memory) :
    ∃ m', bufferMemory T p o m = some m' := by
  have hlen := blocks_add_tail o
  unfold BusClear accessedBytes at h
  obtain ⟨m1, h1⟩ := blocksOp_isSome (n := o.blocks) (fun off ho => h off (by split <;> omega)) T m
  simp only [bufferMemory, Option.bind_eq_bind, h1, Option.bind_some]
  split
  · exact ⟨m1, rfl⟩
  · rename_i hne
    rw [if_neg hne] at h
    refine copyBytes_isSome (fun off ho => ?_) m1
    rw [Nat.add_assoc, Nat.add_assoc]
    exact h (8 * o.blocks + off) (by omega)

/-! ## The commands -/

/-- A command and the transform it runs over a buffer (43_buffer_transform R180, R181). -/
theorem exec_bufferCommand {i : Instr} {s : State} {T : Word × Word → Word × Word}
    (hi : (i = .encBuf ∧ T = encryptBlock s.cipher) ∨ (i = .decBuf ∧ T = decryptBlock s.cipher)) :
    exec i s = .next (s.bufferCommand T) := by
  rcases hi with ⟨rfl, rfl⟩ | ⟨rfl, rfl⟩ <;> rfl

/-- Everything a buffer command can do: its checks refuse it, it meets a bus error, or it completes with the result in its
destination. -/
theorem bufferCommand_cases {s : State} (hw : Memory.wf s.mem) (T : Word × Word → Word × Word) :
    (∃ code, code ≠ .ok ∧ s.bufferCommand T = s.complete code) ∨
      s.bufferCommand T = s.bufferFailed s.operands ∨
      ∃ m, s.bufferCommand T = s.bufferDone s.operands s.raced m ∧ Memory.wf m ∧ HasResult T s.operands s.mem m := by
  unfold State.bufferCommand
  split
  · rename_i code hcode
    refine .inl ⟨code, ?_, rfl⟩
    rintro rfl
    unfold bufferRefusal at hcode
    dsimp only at hcode
    repeat' split at hcode
    all_goals cases hcode
  · rename_i hnone
    have hchecks := bufferRefusal_eq_none.mp hnone
    split
    · exact .inr (.inl rfl)
    · rename_i m hm
      exact .inr (.inr ⟨m, rfl, bufferMemory_wf hw hm, bufferMemory_hasResult hw (apart_of_checksPass hchecks) hm⟩)

/-- A buffer command that passes its checks and meets no bus error completes with the result in its destination. -/
theorem bufferCommand_completes {s : State} (hw : Memory.wf s.mem) (hc : ChecksPass s.keyed s.operands)
    (hb : BusClear s.platform s.operands) (T : Word × Word → Word × Word) :
    ∃ m, s.bufferCommand T = s.bufferDone s.operands s.raced m ∧ Memory.wf m ∧ HasResult T s.operands s.mem m := by
  obtain ⟨m, hm⟩ := bufferMemory_isSome hb T s.mem
  refine ⟨m, ?_, bufferMemory_wf hw hm, bufferMemory_hasResult hw (apart_of_checksPass hc) hm⟩
  simp only [State.bufferCommand, bufferRefusal_eq_none.mpr hc, hm]

/-- Races change only what they affect. -/
theorem read_bufferDone {m : Memory} (hw : Memory.wf m) (s : State) {o : Operands} {raced : List Nat} {a : Nat}
    (h : o.inDest a = false ∨ racedOffset o raced (a - o.dst.toNat) = false) :
    (s.bufferDone o raced m).mem.read a = m.read a := by
  simp only [State.bufferDone, State.complete_mem, State.settleRaces]
  split
  · rfl
  · exact read_drawDest (s := { s with mem := m, unobserved := s.owed o }) hw _ _ a h

/-- A completion with OK changes memory, the count of draws, the completion fields and what is left to observe. -/
theorem bufferDone_eq (s : State) (o : Operands) (raced : List Nat) (m : Memory) :
    s.bufferDone o raced m = { s with
      mem := (s.bufferDone o raced m).mem, draws := (s.bufferDone o raced m).draws, err := .ok, done := true, seq := .idle,
      unobserved := s.owed o } := by
  unfold State.bufferDone State.settleRaces
  split <;> rfl

/-! ## Words of a block -/

/-- A word is its four bytes, the first the most significant (20_memory R81, R82). -/
theorem be32_unbe32 (w : Word) : be32 (unbe32 w 0) (unbe32 w 1) (unbe32 w 2) (unbe32 w 3) = w := by
  have hw := w.isLt
  refine BitVec.eq_of_toNat_eq ?_
  simp only [be32_toNat, unbe32_toNat]
  omega

/-- The first block of a destination with the result holds the words of the transform. -/
theorem HasResult.firstBlock {T : Word × Word → Word × Word} {o : Operands} {m m' : Memory} (h : HasResult T o m m')
    (hl : 8 ≤ o.len.toNat) : sourceBlock m' o.dst.toNat 0 = T (sourceBlock m o.src.toNat 0) := by
  have byte (k : Nat) (hk : k < 8) : m'.read (o.dst.toNat + k) = blockByte (T (sourceBlock m o.src.toNat 0)) k := by
    have hblocks : o.blocks = o.len.toNat / 8 := rfl
    rw [h.dest k (by omega), resultByte, if_pos (by omega), Nat.div_eq_of_lt hk, Nat.mod_eq_of_lt hk]
  have b0 := byte 0 (by omega)
  simp only [Nat.add_zero] at b0
  simp only [sourceBlock, Nat.mul_zero, Nat.add_zero, b0, byte 1, byte 2, byte 3, byte 4, byte 5, byte 6, byte 7, Nat.reduceLT]
  exact Prod.ext (be32_unbe32 _) (be32_unbe32 _)

end Sys2Proof.Machine

open Sys2Proof Sys2Proof.Machine Sys2Proof.Safety

/-- Settles O36: the command completes with R189's bytes everywhere, and races spoil only what they affect. -/
theorem racedBufferResult : Obligations.RacedBufferResult := by
  intro i s T hi hw hc hb
  obtain ⟨m, hcmd, hm, hres⟩ := bufferCommand_completes hw hc hb T
  have hexec := (exec_bufferCommand hi).trans (congrArg _ (hcmd.trans (bufferDone_eq s s.operands s.raced m)))
  refine ⟨_, _, hexec, fun off ho hr => ?_, fun a ha => ?_⟩
  · rw [read_bufferDone hm s (.inr (by rwa [Nat.add_sub_cancel_left])), hres.dest off ho]
  · rw [read_bufferDone hm s (.inl ha), hres.frame a ha]

/-- Settles O40: the block command's words are the transform of its halves, and the buffer command that completes with OK leaves the
bytes of the same words. -/
theorem blockAndBufferCommandsAgree : Obligations.BlockAndBufferCommandsAgree := by
  intro ib iB s s' t t' hi hcipher hkeyed hw hraced hlen hhalves hb hB hok
  obtain ⟨T, hblock, hbuffer⟩ : ∃ T, exec ib s = .next (s.blockCommand T) ∧ exec iB s' = .next (s'.bufferCommand T) := by
    rcases hi with ⟨rfl, rfl⟩ | ⟨rfl, rfl⟩
    · exact ⟨encryptBlock s.cipher, rfl, hcipher ▸ rfl⟩
    · exact ⟨decryptBlock s.cipher, rfl, hcipher ▸ rfl⟩
  cases hblock.symm.trans hb
  cases hbuffer.symm.trans hB
  rw [State.blockCommand, if_pos hkeyed, hhalves]
  rcases bufferCommand_cases hw T with ⟨code, hcode, e⟩ | e | ⟨m, e, -, hres⟩
  · rw [e] at hok
    exact absurd hok hcode
  · rw [e] at hok
    cases hok
  · have hmem : (s'.bufferCommand T).mem = m := by rw [e, hraced]; rfl
    have hwords := hres.firstBlock (by rw [hlen]; decide)
    rw [hmem, State.blockDone_blkL, State.blockDone_blkR, ← hwords]
    exact ⟨rfl, rfl⟩
end

section
/-! The engine works on memory alone (20_memory R97): settles O44. -/

namespace Sys2Proof.Machine

/-- The machine with other host caches, on a platform that does or does not keep them coherent. -/
def State.withCaches (s : State) (c : Cache) (k : Bool) : State :=
  { s with cache := c, platform := { s.platform with coherent := k } }

section

variable (s : State) (c : Cache) (k : Bool)

/-! ## Commands -/

theorem blockCommand_withCaches (T : Word × Word → Word × Word) :
    (s.withCaches c k).blockCommand T = (s.blockCommand T).withCaches c k := by
  show (if s.keyed then _ else _) = _
  unfold State.blockCommand
  split <;> rfl

theorem bufferDone_withCaches (o : Operands) (raced : List Nat) (m : Memory) :
    (s.withCaches c k).bufferDone o raced m = (s.bufferDone o raced m).withCaches c k := by
  unfold State.bufferDone State.settleRaces
  split <;> rfl

theorem bufferMemory_withCaches (T : Word × Word → Word × Word) (o : Operands) (m : Memory) :
    bufferMemory T (s.withCaches c k).platform o m = bufferMemory T s.platform o m := rfl

theorem bufferCommand_withCaches (T : Word × Word → Word × Word) :
    (s.withCaches c k).bufferCommand T = (s.bufferCommand T).withCaches c k := by
  have hkeyed : (s.withCaches c k).keyed = s.keyed := rfl
  have hops : (s.withCaches c k).operands = s.operands := rfl
  have hmem : (s.withCaches c k).mem = s.mem := rfl
  unfold State.bufferCommand
  rw [hkeyed, hops, hmem, bufferMemory_withCaches]
  split
  · rfl
  · split
    · rfl
    · exact bufferDone_withCaches s c k _ _ _

theorem exec_withCaches {i : Instr} {t : State} (h : exec i s = .next t) :
    exec i (s.withCaches c k) = .next (t.withCaches c k) := by
  cases i with
  | schedule =>
    show (if sKeylen s.operands.keylen ≤ 0 then _ else _) = _
    simp only [exec, execSchedule] at h
    split at h
    · cases h
      exact if_pos ‹_›
    · cases h
      exact if_neg ‹_›
  | encBlock =>
    cases h
    exact congrArg _ (blockCommand_withCaches s c k _)
  | decBlock =>
    cases h
    exact congrArg _ (blockCommand_withCaches s c k _)
  | encBuf =>
    cases h
    exact congrArg _ (bufferCommand_withCaches s c k _)
  | decBuf =>
    cases h
    exact congrArg _ (bufferCommand_withCaches s c k _)

/-! ## Micro-steps -/

theorem tickChecks_withCaches (i : Instr) (r : Run) :
    tickChecks i r (s.withCaches c k) = (tickChecks i r s).withCaches c k := by
  have hkeyed : (s.withCaches c k).keyed = s.keyed := rfl
  cases i <;> simp only [tickChecks, hkeyed] <;> split <;> rfl

theorem tickProgress_withCaches (pick : Nat) (i : Instr) (r : Run) :
    tickProgress pick i r (s.withCaches c k) = (tickProgress pick i r s).withCaches c k := by
  unfold tickProgress
  cases r.progress with
  | checks => exact tickChecks_withCaches s c k i r
  | sched n round l h =>
    simp only [tickSched]
    split
    · rfl
    · split <;> rfl
  | block round l h =>
    simp only [tickBlock]
    split <;> rfl
  | read j todo b =>
    simp only [tickRead]
    split <;> rfl
  | rounds j round l h =>
    simp only [tickRounds]
    split <;> rfl
  | write j todo l h =>
    simp only [tickWrite]
    split <;> rfl
  | tail toRead toWrite =>
    simp only [tickTail]
    split
    · exact bufferDone_withCaches s c k _ _ _
    · rfl
    · rfl

theorem tick_withCaches (pick : Nat) : (s.withCaches c k).tick pick = (s.tick pick).withCaches c k := by
  have hseq : (s.withCaches c k).seq = s.seq := rfl
  have hfails (x : Option Access) : accessFails (s.withCaches c k).platform x = accessFails s.platform x := rfl
  unfold State.tick
  rw [hseq]
  split
  · rfl
  · split
    · rfl
    · rw [hfails]
      split
      · rfl
      · exact tickProgress_withCaches s c k _ _ _

end

/-! ## Neither changes a cache -/

theorem exec_keeps_caches {i : Instr} {s t : State} (h : exec i s = .next t) :
    t.cache = s.cache ∧ t.platform = s.platform := by
  rcases exec_cases i s with ⟨-, e⟩ | ⟨-, -, e⟩ | ⟨-, code, e⟩ | ⟨-, -, lr, e⟩ | ⟨-, -, e | ⟨m, e⟩⟩ <;>
    cases e.symm.trans h <;> simp

theorem tick_keeps_caches (s : State) (pick : Nat) : (s.tick pick).cache = s.cache ∧ (s.tick pick).platform = s.platform := by
  cases hq : s.seq with
  | idle => rw [tick_of_idle pick (State.busy_idle s hq)]; exact ⟨rfl, rfl⟩
  | busy r =>
    rcases tick_cases pick hq with ⟨_, _, _, e, -⟩ | ⟨_, -, e⟩ | ⟨-, -, e⟩ | ⟨-, _, e⟩ | ⟨-, -, _, e⟩ | ⟨-, _, e⟩ | ⟨-, e⟩ |
      ⟨-, e⟩ <;> rw [e] <;> simp [State.illegalCommand]

end Sys2Proof.Machine

open Sys2Proof Sys2Proof.Machine

/-- Settles O44: commands and micro-steps commute with a change of caches and coherence, and make none. -/
theorem engineSeesNoHostCache : Obligations.EngineSeesNoHostCache := by
  intro s c k
  have same {t : State} (ht : t.platform = s.platform) :
      t.withCaches c k = { t with cache := c, platform := { s.platform with coherent := k } } := by
    rw [State.withCaches, ht]
  refine ⟨fun i t h => ?_, fun pick => ?_⟩
  · obtain ⟨hcache, hplatform⟩ := exec_keeps_caches h
    exact ⟨hcache, hplatform, (exec_withCaches s c k h).trans (congrArg _ (same hplatform))⟩
  · obtain ⟨hcache, hplatform⟩ := tick_keeps_caches s pick
    exact ⟨hcache, hplatform, (tick_withCaches s c k pick).trans (same hplatform)⟩
end

section
/-! Host loads, host stores and the moves of host caches (20_memory R91 to R93, R97): settles O41, O42 and O43. -/

namespace Sys2Proof.Machine

open Sys2Proof.Safety

/-! ## Loads -/

theorem State.hostCopy_eq_none {s : State} {a : Nat} :
    s.hostCopy a = none ↔ s.platform.coherent = true ∨ s.cache.find a = none := by
  unfold State.hostCopy
  cases s.platform.coherent <;> simp

/-- A host load returns the copy, or what a read of memory may return where there is none. -/
theorem hostLoad_eq_getD (s : State) (a : Word) (pick : Nat) :
    s.hostLoad a pick = s.respond (.byte ((s.hostCopy a.toNat).getD (s.raceRead a.toNat pick))) := by
  unfold State.hostLoad
  cases h : s.hostCopy a.toNat <;> rfl

theorem step_memRead {s : State} {a : Word} {pick : Nat} {rest : List Event} (hi : s.inputs = .memRead a pick :: rest) :
    step s = .next { s with
      inputs := rest, response := .byte ((s.hostCopy a.toNat).getD (s.raceRead a.toNat pick)) } := by
  rw [step_of_event hi]
  exact congrArg Host.Outcome.next (hostLoad_eq_getD { s with inputs := rest } a pick)

theorem newByte_eq_some {s : State} {a : Nat} {b : Byte} :
    s.newByte a = some b ↔ ∃ r, s.seq = .busy r ∧ r.ops.inDest a = true ∧ r.out.lookup a = some b := by
  unfold State.newByte
  cases s.seq <;> simp

theorem mem_oldBytes {s : State} {a : Nat} {b : Byte} :
    b ∈ s.oldBytes a ↔ ∃ d ∈ s.unobserved, d.ops.inDest a = true ∧ b = d.before.read a := by
  simp only [State.oldBytes, List.mem_map, List.mem_filter, and_assoc, eq_comm (a := b)]

theorem mem_raceBytes {s : State} {a : Nat} {b : Byte} :
    b ∈ s.raceBytes a ↔ b = s.mem.read a ∨
      (∃ r, s.seq = .busy r ∧ r.ops.inDest a = true ∧ r.out.lookup a = some b) ∨
      ∃ d ∈ s.unobserved, d.ops.inDest a = true ∧ b = d.before.read a := by
  rw [State.raceBytes, List.mem_cons, List.mem_append, Option.mem_toList, newByte_eq_some, mem_oldBytes]

/-- Each value a racing read may return is one that some choice returns. -/
theorem exists_raceRead {s : State} {a : Nat} {b : Byte} (h : b ∈ s.raceBytes a) : ∃ pick, s.raceRead a pick = b := by
  obtain ⟨n, hn, rfl⟩ := List.getElem_of_mem h
  exact ⟨n, by rw [State.raceRead, chosen, Nat.mod_eq_of_lt hn, List.getElem?_eq_getElem hn, Option.getD_some]⟩

/-! ## Stores -/

theorem step_memWrite {s : State} {a : Word} {b : Byte} {rest : List Event} (hi : s.inputs = .memWrite a b :: rest) :
    step s = .next (State.hostStore { s with inputs := rest } a b) := step_of_event hi

/-- The one race a store can note of a running command. -/
theorem raced_of_noteStore {r : Run} {a : Nat} {l : List Nat}
    (h : Sequencer.noteStore (.busy r) a = .busy { r with raced := l ++ r.raced }) :
    l = if (decode r.word = .ok .encBuf ∨ decode r.word = .ok .decBuf) ∧ (r.ops.inSource a = true ∨ r.ops.inDest a = true)
      then [a] else [] := by
  rw [noteStore_busy] at h
  have hraced := congrArg Run.raced (Sequencer.busy.inj h)
  dsimp only at hraced
  refine List.append_cancel_right (hraced.symm.trans ?_)
  split <;> rfl

/-- What a store leaves of a running command: its own race, and, in a buffer command, every change that is noted. -/
theorem exists_raced {s : State} {a : Nat} {hit : Nat → Prop} {q : Sequencer} (hn : Noted hit s.seq q)
    (ho : s.unobserved = [] → q = s.seq.noteStore a) {r : Run} (hr : s.seq = .busy r) :
    ∃ l, q = .busy { r with raced := l ++ r.raced } ∧
      (s.unobserved = [] → l = if (decode r.word = .ok .encBuf ∨ decode r.word = .ok .decBuf) ∧
          (r.ops.inSource a = true ∨ r.ops.inDest a = true) then [a] else []) ∧
      (decode r.word = .ok .encBuf ∨ decode r.word = .ok .decBuf →
        ∀ x, hit x → r.ops.inSource x = true ∨ r.ops.inDest x = true → x ∈ l) := by
  obtain ⟨l, hq, hl⟩ := hn.2 r hr
  refine ⟨l, hq, fun hu => raced_of_noteStore ?_, fun hb => hl ((isBuffer_iff _).mpr hb)⟩
  rw [← hr, ← ho hu, hq]

/-! ## Moves of host caches -/

theorem cacheFill_of_coherent (s : State) (h : s.platform.coherent = true) (a : Word) (pick : Nat) :
    s.cacheFill a pick = s := by
  rw [State.cacheFill, h]
  rfl

theorem cacheFill_of_copy (s : State) {a : Word} {b : Byte} (h : s.cache.find a.toNat = some b) (pick : Nat) :
    s.cacheFill a pick = s := by
  rw [State.cacheFill, h, Option.isSome_some, Bool.or_true]
  rfl

theorem cacheFill_of_no_copy (s : State) {a : Word} (hp : s.platform.coherent = false)
    (h : s.cache.find a.toNat = none) (pick : Nat) :
    s.cacheFill a pick = { s with cache := s.cache.put a.toNat (s.raceRead a.toNat pick) } := by
  rw [State.cacheFill, hp, h]
  rfl

theorem cacheClean_of_no_copy {s : State} {a : Word} (h : s.hostCopy a.toNat = none) : s.cacheClean a = s := by
  rw [State.cacheClean, h]

theorem cacheClean_of_copy {s : State} {a : Word} {b : Byte} (h : s.hostCopy a.toNat = some b) :
    s.cacheClean a = s.arrive a.toNat b := by
  rw [State.cacheClean, h]

theorem cacheInvalidate_of_coherent (s : State) (h : s.platform.coherent = true) (a : Word) :
    s.cacheInvalidate a = s :=
  if_pos h

theorem cacheInvalidate_of_cached (s : State) (h : s.platform.coherent = false) (a : Word) :
    s.cacheInvalidate a = { s with cache := s.cache.drop a.toNat } :=
  if_neg (by rw [h]; exact Bool.false_ne_true)

/-- Races have nothing to do with the platform. -/
theorem spoilAll_withPlatform (s : State) (p : Platform) (a : Nat) (owed : List Completed) :
    State.spoilAll { s with platform := p } a owed = { s.spoilAll a owed with platform := p } := by
  induction owed generalizing s with
  | nil => rfl
  | cons d rest ih =>
    have spoil : State.spoil { s with platform := p } d.ops a = { s.spoil d.ops a with platform := p } := by
      unfold State.spoil
      split <;> rfl
    exact (congrArg (State.spoilAll · a rest) spoil).trans (ih (s.spoil d.ops a))

/-- A byte arrives in memory alike on every platform. -/
theorem arrive_withPlatform (s : State) (p : Platform) (a : Nat) (b : Byte) :
    State.arrive { s with platform := p } a b = { s.arrive a b with platform := p } :=
  spoilAll_withPlatform
    { s with
      mem := s.mem.write a b
      unobserved := s.unobserved.map (fun d => { d with before := d.before.write a b })
      seq := s.seq.noteStore a } p a _

/-- The arrival of a byte is a host store on a coherent platform, but for the answer (20_memory R91, R97). -/
theorem arrive_eq_hostStore (s : State) (a : Word) (b : Byte) :
    s.arrive a.toNat b =
      { State.hostStore { s with platform := { s.platform with coherent := true } } a b with
        platform := s.platform, response := s.response } := by
  obtain ⟨m, n, q, e, -⟩ := arrive_cases s a.toNat b
  have coherent := (arrive_withPlatform s { s.platform with coherent := true } a.toNat b).trans (by rw [e])
  rw [State.hostStore_of_coherent rfl, coherent, e]
  rfl

end Sys2Proof.Machine

open Sys2Proof Sys2Proof.Machine Sys2Proof.Safety

/-- Settles O41: the answer is the copy or one of the bytes a racing read may return, and a choice returns each of them. -/
theorem hostLoadReturnsOldOrNew : Obligations.HostLoadReturnsOldOrNew := by
  refine ⟨fun s a pick rest hi => ⟨_, step_memRead hi, fun hnone => ?_, fun c hp hc => ?_⟩, fun s a b hnone hb => ?_⟩
  · rw [State.hostCopy_eq_none.mpr hnone]
    exact raceRead_cases s a.toNat pick
  · rw [State.hostCopy_eq_some.mpr ⟨hp, hc⟩]
    rfl
  · obtain ⟨pick, rfl⟩ := exists_raceRead (mem_raceBytes.mpr hb)
    refine ⟨pick, fun rest => (step_memRead rfl).trans ?_⟩
    have hcopy : State.hostCopy { s with inputs := .memRead a pick :: rest } a.toNat = none := State.hostCopy_eq_none.mpr hnone
    rw [hcopy]
    rfl

/-- Settles O42: a store into memory is the arrival of its byte, and one into the host's copy keeps memory; either way a running
command notes it. -/
theorem hostStoreWritesOneByte : Obligations.HostStoreWritesOneByte := by
  intro s a b rest hw hi
  rw [step_memWrite hi]
  rcases hostStore_cases { s with inputs := rest } a b with ⟨hp, e⟩ | ⟨hp, e⟩
  · obtain ⟨m, n, q, harrive, h⟩ := arrive_cases { s with inputs := rest } a.toNat b
    obtain ⟨hm, hread, hnoted⟩ := h hw
    have observed (hu : s.unobserved = []) :=
      harrive.symm.trans (arrive_of_observed (s := { s with inputs := rest }) hu a.toNat b)
    exact ⟨m, s.cache, q, _, n, by rw [e, harrive]; rfl, hm, fun _ => ⟨rfl, hread, rfl⟩,
      fun hc => (nomatch hp.symm.trans hc), fun hu => congrArg State.draws (observed hu), hnoted.1,
      fun r => exists_raced hnoted fun hu => congrArg State.seq (observed hu)⟩
  · obtain ⟨m, n, q, hkeep, h⟩ := keep_cases { s with inputs := rest } a.toNat b
    obtain ⟨hm, hread, hnoted⟩ := h hw
    have observed (hu : s.unobserved = []) :=
      hkeep.symm.trans (keep_of_observed (s := { s with inputs := rest }) hu a.toNat b)
    have copies := Cache.find_put s.cache a.toNat b
    exact ⟨m, s.cache.put a.toNat b, q, s.unobserved, n, by rw [e, hkeep]; rfl, hm,
      fun hc => (nomatch hp.symm.trans hc), fun _ => ⟨hread, (copies _).trans (if_pos rfl), fun x hx => (copies x).trans (if_neg hx), rfl⟩,
      fun hu => congrArg State.draws (observed hu), hnoted.1,
      fun r => exists_raced hnoted fun hu => congrArg State.seq (observed hu)⟩

/-- Settles O43: each move by whether the platform keeps its caches coherent and whether there is a copy. -/
theorem hostCacheMoves : Obligations.HostCacheMoves := by
  refine ⟨fun s a pick e rest hp he hi => ?_, fun s a pick rest hp hi => ?_, fun s a rest hp hi => ⟨fun hnone => ?_, ?_⟩,
    fun s a rest hp hi => ?_⟩
  · rw [step_of_event hi]
    have hcopy : State.hostCopy { s with inputs := rest } a.toNat = none := State.hostCopy_of_coherent hp _
    rcases he with rfl | rfl | rfl
    · exact congrArg Host.Outcome.next (cacheFill_of_coherent { s with inputs := rest } hp a pick)
    · exact congrArg Host.Outcome.next (cacheClean_of_no_copy hcopy)
    · exact congrArg Host.Outcome.next (cacheInvalidate_of_coherent { s with inputs := rest } hp a)
  · rw [step_of_event hi]
    cases hc : s.cache.find a.toNat with
    | some b =>
      exact ⟨s.cache, congrArg Host.Outcome.next (cacheFill_of_copy { s with inputs := rest } hc pick), fun _ _ => rfl,
        fun _ h => h ▸ hc, nofun⟩
    | none =>
      have hcopy : State.hostCopy { s with inputs := .memRead a pick :: rest } a.toNat = none :=
        State.hostCopy_eq_none.mpr (.inr hc)
      refine ⟨_, congrArg Host.Outcome.next (cacheFill_of_no_copy { s with inputs := rest } hp hc pick), fun x hx => ?_,
        nofun, fun _ => ⟨_, (Cache.find_put ..).trans (if_pos rfl), (step_memRead rfl).trans ?_⟩⟩
      · exact (Cache.find_put ..).trans (if_neg hx)
      · rw [hcopy]
        rfl
  · rw [step_of_event hi]
    exact congrArg Host.Outcome.next (cacheClean_of_no_copy (State.hostCopy_eq_none.mpr (.inr hnone)))
  · intro b t hc ht
    have hcopy : State.hostCopy { s with inputs := rest } a.toNat = some b := State.hostCopy_eq_some.mpr ⟨hp, hc⟩
    cases (step_memWrite rfl).symm.trans ht
    rw [step_of_event hi]
    exact congrArg Host.Outcome.next ((cacheClean_of_copy hcopy).trans (arrive_eq_hostStore _ a b))
  · rw [step_of_event hi]
    refine ⟨_, congrArg Host.Outcome.next (cacheInvalidate_of_cached { s with inputs := rest } hp a), ?_, fun x hx => ?_⟩
    · exact (Cache.find_drop ..).trans (if_pos rfl)
    · exact (Cache.find_drop ..).trans (if_neg hx)
end

section
/-! Which bytes of memory a step can change (20_memory R80, 43_buffer_transform R189, R191, 70_reset_and_hazards R243, R252): settles
O60. -/

namespace Sys2Proof.Machine

open Sys2Proof.Safety

/-! ## What a run holds as written stays in its destination -/

/-- The condition of `OutInDest` on one run. -/
def RunInDest (r : Run) : Prop :=
  (∀ c ∈ r.out, r.ops.inDest c.1 = true) ∧
    ∀ toRead toWrite, r.progress = .tail toRead toWrite → ∀ off ∈ toRead ++ toWrite.map Prod.fst, off < r.ops.len.toNat

theorem outInDest_of_idle {s : State} (hq : s.seq = .idle) : OutInDest s := fun r hr => by
  cases hq.symm.trans hr

theorem outInDest_of_busy {s : State} {r : Run} (hq : s.seq = .busy r) (h : RunInDest r) : OutInDest s := fun r' hr => by
  cases hq.symm.trans hr
  exact h

/-- Noted races change neither what a run holds as written nor its progress. -/
theorem outInDest_of_noted {s t : State} {hit : Nat → Prop} (h : OutInDest s) (hn : Noted hit s.seq t.seq) : OutInDest t := by
  cases hs : s.seq with
  | idle => exact outInDest_of_idle (hn.1 hs)
  | busy r =>
    obtain ⟨l, ht, -⟩ := hn.2 r hs
    exact outInDest_of_busy ht (h r hs)

theorem RunInDest.toTail {r : Run} {toRead : List Nat} {toWrite : List (Nat × Byte)}
    (ho : ∀ c ∈ r.out, r.ops.inDest c.1 = true) (ht : ∀ off ∈ toRead ++ toWrite.map Prod.fst, off < r.ops.len.toNat) :
    RunInDest { r with progress := .tail toRead toWrite } :=
  ⟨ho, fun _ _ e => by cases e; exact ht⟩

theorem RunInDest.toBlock {r : Run} {p : Progress} (ho : ∀ c ∈ r.out, r.ops.inDest c.1 = true)
    (hp : ∀ toRead toWrite, p ≠ .tail toRead toWrite) : RunInDest { r with progress := p } :=
  ⟨ho, fun _ _ e => absurd e (hp _ _)⟩

/-- The trailing bytes lie in the buffer (43_buffer_transform R184). -/
theorem lt_of_mem_tailOffsets {o : Operands} {off : Nat} (h : off ∈ o.tailOffsets) : off < o.len.toNat := by
  unfold Operands.tailOffsets at h
  split at h
  · cases h
  · have := blocks_add_tail o
    rw [List.mem_range'_1] at h
    omega

theorem RunInDest.atBlock {r : Run} (ho : ∀ c ∈ r.out, r.ops.inDest c.1 = true) (j : Nat) :
    RunInDest { r with progress := r.ops.atBlock j } := by
  unfold Operands.atBlock
  split
  · exact .toBlock ho nofun
  · refine .toTail ho fun off h => lt_of_mem_tailOffsets ?_
    rwa [List.map_nil, List.append_nil] at h

theorem outInDest_tickChecks {s : State} {r : Run} (h : RunInDest r) (i : Instr) : OutInDest (tickChecks i r s) := by
  have goesOn {s' : State} {p : Progress} (hp : ∀ toRead toWrite, p ≠ .tail toRead toWrite) : OutInDest (s'.goTo r p) :=
    outInDest_of_busy rfl (.toBlock h.1 hp)
  have firstBlock : OutInDest (s.goTo r (r.ops.atBlock 0)) := outInDest_of_busy rfl (.atBlock h.1 0)
  cases i with
  | schedule =>
    simp only [tickChecks]
    split
    · exact outInDest_of_idle rfl
    · exact goesOn nofun
  | encBlock =>
    simp only [tickChecks]
    split
    · exact goesOn nofun
    · exact outInDest_of_idle rfl
  | decBlock =>
    simp only [tickChecks]
    split
    · exact goesOn nofun
    · exact outInDest_of_idle rfl
  | encBuf =>
    simp only [tickChecks]
    split
    · exact outInDest_of_idle rfl
    · exact firstBlock
  | decBuf =>
    simp only [tickChecks]
    split
    · exact outInDest_of_idle rfl
    · exact firstBlock

theorem outInDest_tickWrite {s : State} {r : Run} {j : Nat} (h : RunInDest r) (hj : j < r.ops.blocks) (pick : Nat)
    (todo : List (Fin 8)) (lr : Word × Word) : OutInDest (tickWrite pick j todo lr r s) := by
  unfold tickWrite
  split
  · exact outInDest_of_busy rfl (.atBlock h.1 (j + 1))
  · rename_i k _
    have hlen := blocks_add_tail r.ops
    refine outInDest_of_busy rfl (RunInDest.toBlock (List.forall_mem_cons.mpr ⟨?_, h.1⟩) nofun)
    exact inDest_eq_true.mpr (by dsimp only; omega)

theorem tailChoice_mem {pick : Nat} {toRead : List Nat} {toWrite : List (Nat × Byte)} {x : Nat ⊕ (Nat × Byte)}
    (h : tailChoice pick toRead toWrite = some x) : x ∈ toRead.map Sum.inl ++ toWrite.map Sum.inr :=
  List.mem_of_getElem? h

theorem outInDest_tickTail {s : State} {r : Run} {toRead : List Nat} {toWrite : List (Nat × Byte)} (h : RunInDest r)
    (hp : r.progress = .tail toRead toWrite) (pick : Nat) : OutInDest (tickTail pick toRead toWrite r s) := by
  obtain ⟨hout, htail⟩ := h
  have hlen := htail toRead toWrite hp
  simp only [List.forall_mem_append, List.forall_mem_map] at hlen
  obtain ⟨hread, hwrite⟩ := hlen
  unfold tickTail
  split
  · exact outInDest_of_idle (State.bufferDone_seq ..)
  · rename_i m hm
    have hmem : m ∈ toRead := by simpa using tailChoice_mem hm
    refine outInDest_of_busy rfl (.toTail hout ?_)
    simp only [List.map_cons, List.forall_mem_append, List.forall_mem_cons, List.forall_mem_map]
    exact ⟨fun off ho => hread off (List.mem_of_mem_erase ho), hread m hmem, hwrite⟩
  · rename_i c hc
    have hmem : c ∈ toWrite := by simpa using tailChoice_mem hc
    have hdest : r.ops.inDest (r.ops.dst.toNat + c.1) = true :=
      inDest_eq_true.mpr ⟨Nat.le_add_right _ _, Nat.add_lt_add_left (hwrite c hmem) _⟩
    refine outInDest_of_busy rfl (.toTail (List.forall_mem_cons.mpr ⟨hdest, hout⟩) ?_)
    simp only [List.forall_mem_append, List.forall_mem_map]
    exact ⟨hread, fun d hd => hwrite d (List.mem_of_mem_erase hd)⟩

theorem outInDest_tick {s : State} {r : Run} (hq : s.seq = .busy r) (hf : RunFits r) (h : RunInDest r) (pick : Nat) :
    OutInDest (s.tick pick) := by
  unfold State.tick
  rw [hq]
  dsimp only
  split
  · exact outInDest_of_idle rfl
  · rename_i i hd
    split
    · exact outInDest_of_idle rfl
    · have hfits := (runFits_iff hd).mp hf
      unfold tickProgress
      cases hp : r.progress with
      | checks => exact outInDest_tickChecks h i
      | sched n round l l' =>
        simp only [tickSched]
        split
        · exact outInDest_of_busy rfl (.toBlock h.1 nofun)
        · split
          · exact outInDest_of_busy rfl (.toBlock h.1 nofun)
          · exact outInDest_of_idle rfl
      | block round l l' =>
        simp only [tickBlock]
        split
        · exact outInDest_of_busy rfl (.toBlock h.1 nofun)
        · exact outInDest_of_idle rfl
      | read j todo b =>
        simp only [tickRead]
        split <;> exact outInDest_of_busy rfl (.toBlock h.1 nofun)
      | rounds j round l l' =>
        simp only [tickRounds]
        split <;> exact outInDest_of_busy rfl (.toBlock h.1 nofun)
      | write j todo l l' =>
        rw [hp] at hfits
        exact outInDest_tickWrite h hfits.2 pick todo (l, l')
      | tail toRead toWrite => exact outInDest_tickTail h hp pick

/-! ## What each move does to memory -/

theorem read_bufferFailed {s : State} (hw : Memory.wf s.mem) {o : Operands} {a : Nat} (h : o.inDest a = false) :
    (s.bufferFailed o).mem.read a = s.mem.read a :=
  read_drawDest (s := { s with unobserved := s.owed o }) hw o _ a (.inl h)

/-- A buffer command changes memory only in its destination. -/
theorem read_bufferCommand {s : State} (hw : Memory.wf s.mem) (T : Word × Word → Word × Word) {a : Nat}
    (h : s.operands.inDest a = false) : (s.bufferCommand T).mem.read a = s.mem.read a := by
  rcases bufferCommand_cases hw T with ⟨code, -, e⟩ | e | ⟨m, e, hm, hres⟩ <;> rw [e]
  · rfl
  · exact read_bufferFailed hw h
  · rw [read_bufferDone hm s (.inl h), hres.frame a h]

/-- A command changes a byte of memory only in its destination, when it is a buffer command. -/
theorem exec_changes {i : Instr} {s t : State} (hw : Memory.wf s.mem) (h : exec i s = .next t) {a : Nat}
    (ha : t.mem.read a ≠ s.mem.read a) : (i = .encBuf ∨ i = .decBuf) ∧ s.operands.inDest a = true := by
  have block (T : Word × Word → Word × Word) : (s.blockCommand T).mem = s.mem := by
    unfold State.blockCommand
    split <;> rfl
  have dest {T : Word × Word → Word × Word} (hT : (s.bufferCommand T).mem.read a ≠ s.mem.read a) :
      s.operands.inDest a = true := by
    by_contra hd
    exact hT (read_bufferCommand hw T (Bool.eq_false_iff.mpr hd))
  cases i with
  | schedule =>
    simp only [exec, execSchedule] at h
    split at h <;> cases h <;> exact absurd rfl ha
  | encBlock => cases h; exact absurd (by rw [block]) ha
  | decBlock => cases h; exact absurd (by rw [block]) ha
  | encBuf => cases h; exact ⟨.inl rfl, dest ha⟩
  | decBuf => cases h; exact ⟨.inr rfl, dest ha⟩

/-- A run that reads, writes or copies is a buffer command's. -/
theorem decode_of_buffer {r : Run} (hf : RunFits r)
    (hp : (∃ j todo b, r.progress = .read j todo b) ∨ (∃ j todo l h, r.progress = .write j todo l h) ∨
      ∃ x y, r.progress = .tail x y) : decode r.word = .ok .encBuf ∨ decode r.word = .ok .decBuf := by
  unfold RunFits at hf
  split at hf
  · rename_i i hd
    rw [hd]
    simp only [Except.ok.injEq]
    rcases hp with ⟨_, _, _, e⟩ | ⟨_, _, _, _, e⟩ | ⟨_, _, e⟩ <;> rw [e] at hf
    · exact hf.1
    · exact hf.1
    · exact hf
  · rcases hp with ⟨_, _, _, e⟩ | ⟨_, _, _, _, e⟩ | ⟨_, _, e⟩ <;> cases hf.symm.trans e

/-- A micro-step changes a byte of memory only in the destination of a buffer command, when it completes it. -/
theorem tick_changes {s : State} {r : Run} (hw : Memory.wf s.mem) (hq : s.seq = .busy r) (hf : RunFits r) (h : RunInDest r)
    {pick a : Nat} (ha : (s.tick pick).mem.read a ≠ s.mem.read a) :
    (decode r.word = .ok .encBuf ∨ decode r.word = .ok .decBuf) ∧ r.ops.inDest a = true := by
  by_contra hn
  refine ha ?_
  have outside (hp) (hd : ¬ r.ops.inDest a = false) : False :=
    hn ⟨decode_of_buffer hf hp, by simpa using hd⟩
  rcases tick_cases pick hq with ⟨_, _, _, e, -⟩ | ⟨_, -, e⟩ | ⟨-, -, e⟩ | ⟨-, _, e⟩ | ⟨-, -, _, e⟩ | ⟨-, _, e⟩ | ⟨hp, e⟩ |
    ⟨hp, e⟩ <;> rw [e]
  · rfl
  · rfl
  · rfl
  · rfl
  · rfl
  · exact read_bufferFailed hw (not_not.mp (outside hp))
  · have hd := not_not.mp (outside (.inr (.inr hp)))
    rw [read_bufferDone (commit_wf hw _) s (.inl hd)]
    refine read_commit_of_not_mem hw fun c hc he => ?_
    cases (he ▸ h.1 c hc).symm.trans hd

/-- A store changes a byte of memory only where it arrives and where it spoils. -/
theorem arrive_changes {s : State} (hw : Memory.wf s.mem) {x a : Nat} {b : Byte}
    (ha : (s.arrive x b).mem.read a ≠ s.mem.read a) : x = a ∨ Spoils s.unobserved x a := by
  obtain ⟨m, n, q, e, h⟩ := arrive_cases s x b
  obtain ⟨-, hread, -⟩ := h hw
  rw [e] at ha
  by_contra hn
  rw [not_or] at hn
  exact ha ((hread a hn.2).trans (if_neg (Ne.symm hn.1)))

/-- A store into the host's copy changes a byte of memory only where it spoils. -/
theorem keep_changes {s : State} (hw : Memory.wf s.mem) {x a : Nat} {b : Byte}
    (ha : (s.keep x b).mem.read a ≠ s.mem.read a) : Spoils s.unobserved x a := by
  obtain ⟨m, n, q, e, h⟩ := keep_cases s x b
  obtain ⟨-, hread, -⟩ := h hw
  rw [e] at ha
  by_contra hn
  exact ha (hread a hn)

/-- Reset changes a byte of memory only in the destination of a buffer command it abandons (70_reset_and_hazards R243). -/
theorem resetInput_changes {s : State} (hw : Memory.wf s.mem) {a : Nat}
    (ha : s.resetInput.mem.read a ≠ s.mem.read a) :
    ∃ r, s.seq = .busy r ∧ (decode r.word = .ok .encBuf ∨ decode r.word = .ok .decBuf) ∧ r.ops.inDest a = true := by
  change s.abandon.mem.read a ≠ _ at ha
  unfold State.abandon at ha
  split at ha
  · exact absurd rfl ha
  · rename_i r hq
    split at ha
    · refine ⟨r, hq, (isBuffer_iff _).mp ‹_›, ?_⟩
      by_contra hd
      exact ha (read_drawDest hw r.ops _ a (.inl (Bool.eq_false_iff.mpr hd)))
    · exact absurd rfl ha

/-- A register's write leaves memory, and of the sequencer it can only start a run that has done nothing yet. -/
theorem writeReg_sequencer (s : State) (r : Reg) (v : Word) :
    (s.writeReg r v).mem = s.mem ∧
      ((s.writeReg r v).seq = s.seq ∨ (s.writeReg r v).seq = .busy ⟨v, s.latch, .checks, [], []⟩) := by
  have operand {taken : State} (hm : taken.mem = s.mem)
      (hq : taken.seq = s.seq ∨ taken.seq = .busy ⟨v, s.latch, .checks, [], []⟩) :
      (s.unlessBusy taken).mem = s.mem ∧
        ((s.unlessBusy taken).seq = s.seq ∨ (s.unlessBusy taken).seq = .busy ⟨v, s.latch, .checks, [], []⟩) := by
    rcases unlessBusy_cases s taken with ⟨-, e⟩ | ⟨-, e⟩ <;> rw [e]
    · exact ⟨hm, hq⟩
    · exact ⟨rfl, .inl rfl⟩
  cases r with
  | id => exact ⟨rfl, .inl rfl⟩
  | ctrl => exact ⟨rfl, .inl rfl⟩
  | status => exact ⟨rfl, .inl rfl⟩
  | cmd => exact operand rfl (.inr rfl)
  | keylen => exact operand rfl (.inl rfl)
  | src => exact operand rfl (.inl rfl)
  | dst => exact operand rfl (.inl rfl)
  | len => exact operand rfl (.inl rfl)
  | blkL => exact operand rfl (.inl rfl)
  | blkR => exact operand rfl (.inl rfl)
  | key j => exact operand rfl (.inl rfl)

theorem outInDest_writeReg {s : State} (h : OutInDest s) (r : Reg) (v : Word) :
    OutInDest ((s.writeReg r v).respond .written) := by
  rcases (writeReg_sequencer s r v).2 with hq | hq
  · exact fun r' hr => h r' (hq ▸ hr)
  · exact outInDest_of_busy hq ⟨nofun, nofun⟩

theorem outInDest_exec {i : Instr} {s t : State} (h : exec i s = .next t) : OutInDest t := by
  rcases exec_ends h with ⟨-, rfl⟩ | ⟨-, rfl⟩ | ⟨-, hended⟩
  · exact outInDest_of_idle rfl
  · exact outInDest_of_idle rfl
  · exact outInDest_of_idle hended.idle

/-! ## What a step does -/

section

variable {inputs : List Event} {s t : State}

theorem outInDest_of_stepCase (hf : ∀ r, s.seq = .busy r → RunFits r) (h : OutInDest s) (hc : StepCase inputs s t) :
    OutInDest t := by
  cases hc with
  | answered x e => exact e ▸ h
  | observed x _ e => exact e ▸ h
  | nothing e => exact e ▸ h
  | copies c _ _ e => exact e ▸ h
  | register r v _ _ e => exact e ▸ outInDest_writeReg h r v
  | store x b _ _ e => exact e ▸ outInDest_of_noted h (hostStore_controlKept s x b).seq
  | clean x b _ _ _ _ e => exact e ▸ outInDest_of_noted h (arrive_controlKept s x.toNat b).seq
  | reset _ _ e => exact e ▸ outInDest_of_idle rfl
  | tick r pick hq e => exact e ▸ outInDest_tick hq (hf r hq) (h r hq) pick
  | run r i _ _ e => exact outInDest_exec e
  | illegal r _ _ _ e => exact e ▸ outInDest_of_idle rfl

/-- Why the byte of memory at `a` may change: it is stored, or a copy of it is cleaned, or a store or a clean spoils it, or it is the
running buffer command's to write. -/
def MayChange (inputs : List Event) (s : State) (a : Nat) : Prop :=
  (s.platform.coherent = true ∧
    ∃ (x : Word) (b : Byte) (rest : List Event), inputs = .memWrite x b :: rest ∧ x.toNat = a) ∨
  (s.platform.coherent = false ∧
    ∃ (x : Word) (b : Byte) (rest : List Event), inputs = .cacheClean x :: rest ∧ x.toNat = a ∧
      s.cache.find a = some b) ∨
  (∃ (x : Word) (rest : List Event), (inputs = .cacheClean x :: rest ∨ ∃ b, inputs = .memWrite x b :: rest) ∧
    Spoils s.unobserved x.toNat a) ∨
  ∃ r, s.seq = .busy r ∧ (decode r.word = .ok .encBuf ∨ decode r.word = .ok .decBuf) ∧ r.ops.inDest a = true

theorem hostStore_changes (hw : Memory.wf s.mem) {x : Word} {b : Byte} {rest : List Event} {a : Nat}
    (hi : inputs = .memWrite x b :: rest) (ha : (s.hostStore x b).mem.read a ≠ s.mem.read a) : MayChange inputs s a := by
  rcases hostStore_cases s x b with ⟨hp, e⟩ | ⟨hp, e⟩ <;> rw [e] at ha
  · rcases arrive_changes hw ha with hx | hx
    · exact .inl ⟨hp, x, b, rest, hi, hx⟩
    · exact .inr (.inr (.inl ⟨x, rest, .inr ⟨b, hi⟩, hx⟩))
  · exact .inr (.inr (.inl ⟨x, rest, .inr ⟨b, hi⟩, keep_changes hw ha⟩))

theorem mayChange_of_stepCase (hw : Memory.wf s.mem) (hf : ∀ r, s.seq = .busy r → RunFits r) (h : OutInDest s)
    (hc : StepCase inputs s t) {a : Nat} (ha : t.mem.read a ≠ s.mem.read a) : MayChange inputs s a := by
  cases hc with
  | answered x e => exact absurd (by rw [e]; rfl) ha
  | observed x _ e => exact absurd (by rw [e]) ha
  | nothing e => exact absurd (by rw [e]) ha
  | copies c _ _ e => exact absurd (by rw [e]) ha
  | illegal r _ _ _ e => exact absurd (by rw [e]; rfl) ha
  | register r v _ _ e => exact absurd (by rw [e, State.respond_mem, (writeReg_sequencer s r v).1]) ha
  | store x b rest hi e => exact hostStore_changes hw hi (e ▸ ha)
  | clean x b rest hi hp hb e =>
    rcases arrive_changes hw (e ▸ ha) with hx | hx
    · exact .inr (.inl ⟨hp, x, b, rest, hi, hx, hx ▸ hb⟩)
    · exact .inr (.inr (.inl ⟨x, rest, .inl hi, hx⟩))
  | reset _ _ e => exact .inr (.inr (.inr (resetInput_changes hw (e ▸ ha))))
  | tick r pick hq e => exact .inr (.inr (.inr ⟨r, hq, tick_changes hw hq (hf r hq) (h r hq) (e ▸ ha)⟩))
  | run r i hq hd e =>
    obtain ⟨hi, hdest⟩ := exec_changes hw e ha
    rw [State.operands_busy hq] at hdest
    exact .inr (.inr (.inr ⟨r, hq, by rw [hd]; exact hi.imp (congrArg _) (congrArg _), hdest⟩))

end

end Sys2Proof.Machine

open Sys2Proof.Machine

/-- Settles O60: by each thing a step can do. -/
theorem memoryChangesOnlyInTheDestination : Obligations.MemoryChangesOnlyInTheDestination := by
  intro s t hw hf h hstep
  obtain ⟨rest, hc⟩ := stepCase_of_step hstep
  exact ⟨outInDest_of_stepCase (s := { s with inputs := rest }) hf h hc,
    fun a => mayChange_of_stepCase (s := { s with inputs := rest }) hw hf h hc⟩
end

section
/-! The cache maintenance a host does around a buffer command (20_memory R92, R97): settles O45. -/

namespace Sys2Proof.Safety

open Sys2Proof.Machine

/-! ## Runs of several steps -/

theorem stepAll_of_stuck {s : State} (h : ∀ t, step s ≠ .next t) (n : Nat) : stepAll n s = s := by
  cases n with
  | zero => rfl
  | succ n =>
    rw [stepAll]
    split
    · exact absurd ‹_› (h _)
    · rfl
    · rfl

theorem stepAll_add (m n : Nat) (s : State) : stepAll (m + n) s = stepAll n (stepAll m s) := by
  induction m generalizing s with
  | zero => rw [Nat.zero_add, stepAll]
  | succ m ih =>
    by_cases h : ∃ t, step s = .next t
    · obtain ⟨t, ht⟩ := h
      rw [Nat.add_right_comm, stepAll_of_next ht, stepAll_of_next ht, ih]
    · have stuck := stepAll_of_stuck (not_exists.mp h)
      rw [stuck, stuck, stuck]

/-! ## Cleaning the source -/

/-- Where nothing races, a clean brings the byte the host sees to memory. -/
theorem cacheClean_of_quiet {s : State} (hq : s.seq = .idle) (hu : s.unobserved = []) (hw : Memory.wf s.mem) (a : Word) :
    ∃ m, s.cacheClean a = { s with mem := m } ∧ Memory.wf m ∧
      ∀ x, m.read x = if x = a.toNat then s.hostByte x else s.mem.read x := by
  cases hc : s.hostCopy a.toNat with
  | none =>
    refine ⟨s.mem, cacheClean_of_no_copy hc, hw, fun x => ?_⟩
    split
    · subst x
      rw [State.hostByte, hc, Option.getD_none]
    · rfl
  | some b =>
    refine ⟨s.mem.write a.toNat b, ?_, Memory.write_wf hw _ _, fun x => ?_⟩
    · rw [cacheClean_of_copy hc, arrive_of_observed hu, hq, noteStore_idle]
    · rw [Memory.read_write hw]
      split
      · subst x
        rw [State.hostByte, hc, Option.getD_some]
      · rfl

/-- Where nothing races, cleaning a range brings the bytes the host sees there to memory. -/
theorem stepAll_cleanRange {s : State} {a : Word} {n : Nat} {rest : List Event} (hq : s.seq = .idle) (hu : s.unobserved = [])
    (hw : Memory.wf s.mem) (hn : a.toNat + n ≤ 2 ^ 32) (hi : s.inputs = cleanRange a n ++ rest) :
    ∃ m, stepAll n s = { s with mem := m, inputs := rest } ∧ Memory.wf m ∧
      ∀ x, m.read x = if a.toNat ≤ x ∧ x < a.toNat + n then s.hostByte x else s.mem.read x := by
  induction n generalizing s a with
  | zero =>
    refine ⟨s.mem, ?_, hw, fun x => by rw [if_neg (by omega)]⟩
    rw [← show s.inputs = rest from hi]
    rfl
  | succ n ih =>
    have hi : s.inputs = .cacheClean a :: (cleanRange (a + 1#32) n ++ rest) := hi
    obtain ⟨m1, hclean, hw1, hread1⟩ :=
      cacheClean_of_quiet (s := { s with inputs := cleanRange (a + 1#32) n ++ rest }) hq hu hw a
    have hstep : step s = .next { s with mem := m1, inputs := cleanRange (a + 1#32) n ++ rest } :=
      (step_of_event hi).trans (congrArg Host.Outcome.next hclean)
    have hnext : (a + 1#32).toNat = (a.toNat + 1) % 2 ^ 32 := BitVec.toNat_add a 1#32
    obtain ⟨m, hrun, hm, hread⟩ :=
      ih (s := { s with mem := m1, inputs := cleanRange (a + 1#32) n ++ rest }) (a := a + 1#32) hq hu hw1 (by omega) rfl
    refine ⟨m, (stepAll_of_next hstep n).trans hrun, hm, fun x => ?_⟩
    have hseen : State.hostByte { s with mem := m1, inputs := cleanRange (a + 1#32) n ++ rest } x =
        (s.hostCopy x).getD (m1.read x) := rfl
    rw [hread, hseen, hread1]
    by_cases hx : x = a.toNat
    · rw [if_neg (by omega), if_pos hx, if_pos (by omega)]
      rfl
    · rw [if_neg hx]
      exact if_congr (by omega) rfl rfl

/-! ## The command, from its CMD write to the STATUS read that observes it -/

/-- The CMD write of a buffer command to an idle machine. -/
theorem step_cmd_buffer {s : State} {i : Instr} {rest : List Event} (hi : i = .encBuf ∨ i = .decBuf) (hq : s.seq = .idle)
    (hin : s.inputs = cmd s.platform.base i ++ rest) :
    step s = .next { s with
      done := false
      err := .ok
      seq := .busy ⟨encode i, s.latch, .checks, [], []⟩
      inputs := rest
      response := .written } := by
  have hkeyed : (s.keyed && !isSchedule (encode i)) = s.keyed := by
    rcases hi with rfl | rfl <;> exact Bool.and_true _
  refine (step_csrWrite_of_idle (r := .cmd) hq hin rfl).trans ?_
  simp only [State.accept, State.respond, hkeyed]
  rfl

/-- A buffer command that no host raced with is run to its completion. -/
theorem step_finish_buffer {s : State} {r : Run} {i : Instr} {T : Word × Word → Word × Word} {rest : List Event}
    (hi : (i = .encBuf ∧ T = encryptBlock s.cipher) ∨ (i = .decBuf ∧ T = decryptBlock s.cipher)) (hq : s.seq = .busy r)
    (hd : decode r.word = .ok i) (hr : r.raced = []) (hw : Memory.wf s.mem) (hc : ChecksPass s.keyed r.ops)
    (hb : BusClear s.platform r.ops) (hin : s.inputs = .finish :: rest) :
    ∃ m, step s = .next { s with
        mem := m, err := .ok, done := true, seq := .idle, unobserved := s.owed r.ops, inputs := rest } ∧
      HasResult T r.ops s.mem m := by
  have hops : State.operands { s with inputs := rest } = r.ops := State.operands_busy hq
  have hraced : State.raced { s with inputs := rest } = [] := (State.raced_busy hq).trans hr
  obtain ⟨m, hcmd, -, hres⟩ := bufferCommand_completes (s := { s with inputs := rest }) hw (hops ▸ hc) (hops ▸ hb) T
  rw [hops, hraced] at hcmd
  rw [hops] at hres
  refine ⟨m, ?_, hres⟩
  obtain ⟨-, hrun, -⟩ := stepRunsTheLatchedCommand
  exact (hrun s r i rest hq hd hin).trans ((exec_bufferCommand (s := { s with inputs := rest }) hi).trans
    (congrArg Host.Outcome.next hcmd))

/-- A STATUS read after a completion observes it (20_memory R92). -/
theorem step_statusRead_of_done {s : State} {rest : List Event} (hd : s.done = true)
    (hin : s.inputs = rd s.platform.base .status ++ rest) :
    step s = .next { s with inputs := rest, response := .data s.statusWord, unobserved := [] } := by
  rw [step_csrRead (r := .status) hin, afterRead_status]
  simp only [hd, Bool.true_or, if_true]
  rfl

/-- `t` is a machine whose buffer command, on the operands and the memory of `s`, completed with OK and was observed. -/
structure Observed (T : Word × Word → Word × Word) (s t : State) : Prop where
  idle : t.seq = .idle
  ok : t.err = .ok
  observed : t.unobserved = []
  result : HasResult T s.latch s.mem t.mem

/-- A buffer command from its CMD write to the STATUS read that observes it. -/
theorem stepAll_command {s : State} {i : Instr} {T : Word × Word → Word × Word} {rest : List Event}
    (hi : (i = .encBuf ∧ T = encryptBlock s.cipher) ∨ (i = .decBuf ∧ T = decryptBlock s.cipher)) (hq : s.seq = .idle)
    (hw : Memory.wf s.mem) (hc : ChecksPass s.keyed s.latch) (hb : BusClear s.platform s.latch)
    (hin : s.inputs = cmd s.platform.base i ++ .finish :: (rd s.platform.base .status ++ rest)) :
    ∃ t, stepAll 3 s = t ∧ t.inputs = rest ∧ Observed T s t := by
  have haccept := step_cmd_buffer (hi.imp And.left And.left) hq hin
  obtain ⟨m, hfinish, hres⟩ := step_finish_buffer
    (s := { s with
      done := false
      err := .ok
      seq := .busy ⟨encode i, s.latch, .checks, [], []⟩
      inputs := .finish :: (rd s.platform.base .status ++ rest)
      response := .written }) hi rfl (decode_encode i) rfl hw hc hb rfl
  have hread := step_statusRead_of_done (rest := rest)
    (s := { s with
      mem := m
      err := .ok
      done := true
      seq := .idle
      unobserved := s.owed s.latch
      inputs := rd s.platform.base .status ++ rest
      response := .written }) rfl rfl
  exact ⟨_, (stepAll_of_next haccept 2).trans ((stepAll_of_next hfinish 1).trans (stepAll_of_next hread 0)), rfl,
    rfl, rfl, rfl, hres⟩

/-! ## Invalidating the destination -/

/-- An invalidation leaves no copy of its byte to meet, and makes none. -/
theorem cacheInvalidate_copies (s : State) (a : Word) :
    ∃ c, s.cacheInvalidate a = { s with cache := c } ∧
      ∀ x, x = a.toNat ∨ s.hostCopy x = none → State.hostCopy { s with cache := c } x = none := by
  rcases cacheInvalidate_cases s a with ⟨hp, e⟩ | ⟨hp, e⟩
  · exact ⟨s.cache, e, fun x _ => State.hostCopy_of_coherent hp x⟩
  · refine ⟨s.cache.drop a.toNat, e, fun x hx => State.hostCopy_eq_none.mpr (.inr ?_)⟩
    rw [State.hostCopy_of_cached hp] at hx
    rw [Cache.find_drop]
    split
    · rfl
    · exact hx.resolve_left ‹_›

theorem stepAll_invalidateRange {s : State} {a : Word} {n : Nat} {rest : List Event} (hn : a.toNat + n ≤ 2 ^ 32)
    (hi : s.inputs = invalidateRange a n ++ rest) :
    ∃ c, stepAll n s = { s with cache := c, inputs := rest } ∧
      ∀ x, (a.toNat ≤ x ∧ x < a.toNat + n) ∨ s.hostCopy x = none → State.hostCopy { s with cache := c } x = none := by
  induction n generalizing s a with
  | zero =>
    refine ⟨s.cache, ?_, fun x hx => hx.resolve_left (by omega)⟩
    rw [← show s.inputs = rest from hi]
    rfl
  | succ n ih =>
    have hi : s.inputs = .cacheInvalidate a :: (invalidateRange (a + 1#32) n ++ rest) := hi
    obtain ⟨c1, hdrop, hcopy1⟩ := cacheInvalidate_copies { s with inputs := invalidateRange (a + 1#32) n ++ rest } a
    have hstep : step s = .next { s with cache := c1, inputs := invalidateRange (a + 1#32) n ++ rest } :=
      (step_of_event hi).trans (congrArg Host.Outcome.next hdrop)
    have hnext : (a + 1#32).toNat = (a.toNat + 1) % 2 ^ 32 := BitVec.toNat_add a 1#32
    obtain ⟨c, hrun, hcopy⟩ :=
      ih (s := { s with cache := c1, inputs := invalidateRange (a + 1#32) n ++ rest }) (a := a + 1#32) (by omega) rfl
    refine ⟨c, (stepAll_of_next hstep n).trans hrun, fun x hx => hcopy x ?_⟩
    by_cases hlater : (a + 1#32).toNat ≤ x ∧ x < (a + 1#32).toNat + n
    · exact .inl hlater
    · exact .inr (hcopy1 x (hx.imp_left fun _ => by omega))

/-! ## What the host then loads -/

/-- The result depends on memory only by the source's bytes. -/
theorem resultByte_congr {T : Word × Word → Word × Word} {m m' : Memory} {o : Operands} {off : Nat}
    (h : ∀ k, k < o.len.toNat → m.read (o.src.toNat + k) = m'.read (o.src.toNat + k)) (ho : off < o.len.toNat) :
    resultByte T m o.src.toNat o.blocks off = resultByte T m' o.src.toNat o.blocks off := by
  have hlen := blocks_add_tail o
  unfold resultByte
  split
  · rw [sourceBlock_congr fun k hk => ?_]
    rw [Nat.add_assoc]
    exact h (8 * (off / 8) + k) (by omega)
  · exact h off ho

/-- A load that meets no copy and races with nothing returns the byte in memory. -/
theorem hostLoad_of_quiet {s : State} (hq : s.seq = .idle) (hu : s.unobserved = []) {a : Word}
    (hc : s.hostCopy a.toNat = none) (pick : Nat) : (s.hostLoad a pick).response = .byte (s.mem.read a.toNat) := by
  rw [hostLoad_eq_getD, hc, Option.getD_none, raceRead_of_observed hq hu, State.respond_response]

end Sys2Proof.Safety

open Sys2Proof Sys2Proof.Machine Sys2Proof.Safety

/-- Settles O45: the cleans bring the source the host sees to memory, the command puts R189's bytes of it in the destination, the
STATUS read ends the races, and the invalidations leave no copy of the destination. -/
theorem maintenanceMakesBuffersCoherent : Obligations.MaintenanceMakesBuffersCoherent := by
  intro s i T m rest hi hq hu hw hc hb hlen hin hm
  obtain ⟨hsrc, hdst⟩ : s.src.toNat + s.len.toNat ≤ 2 ^ 32 ∧ s.dst.toNat + s.len.toNat ≤ 2 ^ 32 := by
    obtain ⟨-, h0 | ⟨hsrc, hdst, -⟩⟩ := hc
    · exact absurd h0 (by show s.len.toNat ≠ 0; omega)
    · exact ⟨hsrc, hdst⟩
  simp only [List.append_assoc] at hin
  obtain ⟨m1, hclean, hw1, hread1⟩ := stepAll_cleanRange hq hu hw hsrc hin
  obtain ⟨t, hcommand, hinputs, hobs⟩ := stepAll_command
    (s := { s with
      mem := m1
      inputs := cmd s.platform.base i ++ .finish :: (rd s.platform.base .status ++
        (invalidateRange s.dst s.len.toNat ++ rest)) }) hi hq hw1 hc hb rfl
  obtain ⟨c, hdrop, hcopy⟩ := stepAll_invalidateRange hdst hinputs
  have hrun : stepAll (s.len.toNat + 3 + s.len.toNat) s = { t with cache := c, inputs := rest } := by
    rw [stepAll_add, stepAll_add, hclean, ← hdrop, ← hcommand]
    rfl
  refine ⟨_, hrun, rfl, State.busy_eq_false.mpr hobs.idle, hobs.ok, hobs.observed, fun off a pick ho ha => ?_⟩
  have hsource : resultByte T m1 s.src.toNat s.latch.blocks off = resultByte T m s.src.toNat s.latch.blocks off := by
    refine resultByte_congr (o := s.latch) (fun k hk => ?_) ho
    have hk : k < s.len.toNat := hk
    show m1.read (s.src.toNat + k) = m.read (s.src.toNat + k)
    rw [hread1, if_pos (by omega), hm k hk]
  have hbyte : t.mem.read a.toNat = resultByte T m1 s.src.toNat s.latch.blocks off := ha ▸ hobs.result.dest off ho
  rw [hostLoad_of_quiet (s := { t with cache := c, inputs := rest }) hobs.idle hobs.observed
    (hcopy a.toNat (.inl (by omega))), ← hsource, ← hbyte]
end

section
/-! The decoder by the numbers of the word's two fields (30_encoding R111, R112): one equation for each of its answers, and
the commands' words as the only ones that decode to a command (R114, R117): settles O1, O2 and O3. -/

namespace Sys2Proof

theorem rsvField_eq_zero {w : Word} : rsvField w = 0#28 ↔ w.toNat / 16 = 0 := by
  rw [← BitVec.toNat_inj, rsvField_toNat]
  rfl

theorem opField_eq_iff {w : Word} {op : BitVec 4} : opField w = op ↔ w.toNat % 16 = op.toNat := by
  rw [← BitVec.toNat_inj, opField_toNat]

/-- A set bit of RSV is refused, whatever OP is (30_encoding R112). -/
theorem decode_of_rsv {w : Word} (hrsv : w.toNat / 16 ≠ 0) : decode w = .error .reservedBits :=
  if_pos (mt rsvField_eq_zero.mp hrsv)

/-- A defined OP selects its command (30_encoding R114). -/
theorem decode_of_opcode {w : Word} {i : Instr} (hrsv : w.toNat / 16 = 0) (hop : w.toNat % 16 = (opcode i).toNat) :
    decode w = .ok i := by
  unfold decode
  rw [rsvField_eq_zero.mpr hrsv, opField_eq_iff.mpr hop]
  cases i <;> rfl

/-- OP 0x0 and 0x6 to 0xF stand for no command (30_encoding R115). -/
theorem decode_of_illegalOp {w : Word} (hrsv : w.toNat / 16 = 0) (hop : w.toNat % 16 = 0 ∨ 6 ≤ w.toNat % 16) :
    decode w = .error .illegalOp := by
  have hne (op : BitVec 4) (h : 1 ≤ op.toNat ∧ op.toNat ≤ 5) : opField w ≠ op := mt opField_eq_iff.mp (by omega)
  unfold decode
  rw [if_neg (not_not.mpr (rsvField_eq_zero.mpr hrsv)), if_neg (hne 0x1#4 (by decide)), if_neg (hne 0x2#4 (by decide)),
    if_neg (hne 0x3#4 (by decide)), if_neg (hne 0x4#4 (by decide)), if_neg (hne 0x5#4 (by decide))]

/-- Every OP from 0x1 to 0x5 is some command's (30_encoding R114). -/
theorem exists_opcode {n : Nat} (h : 1 ≤ n ∧ n ≤ 5) : ∃ i : Instr, n = (opcode i).toNat := by
  obtain rfl | rfl | rfl | rfl | rfl : n = 1 ∨ n = 2 ∨ n = 3 ∨ n = 4 ∨ n = 5 := by omega
  exacts [⟨.schedule, rfl⟩, ⟨.encBlock, rfl⟩, ⟨.decBlock, rfl⟩, ⟨.encBuf, rfl⟩, ⟨.decBuf, rfl⟩]

/-- The three equations leave no other way for a word to decode to a command. -/
theorem decode_eq_ok_iff {w : Word} {i : Instr} :
    decode w = .ok i ↔ w.toNat / 16 = 0 ∧ w.toNat % 16 = (opcode i).toNat := by
  refine ⟨fun h => ?_, fun ⟨hrsv, hop⟩ => decode_of_opcode hrsv hop⟩
  by_cases hrsv : w.toNat / 16 = 0
  · by_cases hop : w.toNat % 16 = 0 ∨ 6 ≤ w.toNat % 16
    · cases (decode_of_illegalOp hrsv hop).symm.trans h
    · obtain ⟨j, hj⟩ := exists_opcode (n := w.toNat % 16) (by omega)
      cases (decode_of_opcode hrsv hj).symm.trans h
      exact ⟨hrsv, hj⟩
  · cases (decode_of_rsv hrsv).symm.trans h

/-- What `Laws.CommandWord` proves for each command, for all of them. -/
theorem commandWord_statement (i : Instr) : Laws.CommandWord.Statement i := by
  cases i
  exacts [Laws.CommandWord.schedule, Laws.CommandWord.encBlock, Laws.CommandWord.decBlock, Laws.CommandWord.encBuf,
    Laws.CommandWord.decBuf]

/-- A word is its two fields, so only a command's own word decodes to it (30_encoding R114). -/
theorem eq_encode_of_decode {w : Word} {i : Instr} (h : decode w = .ok i) : w = encode i := by
  obtain ⟨hrsv, hop⟩ := decode_eq_ok_iff.mp h
  obtain ⟨-, -, hword⟩ := commandWord_statement i
  exact BitVec.eq_of_toNat_eq (by omega)

/-- The table's row of a command is read back as the command. -/
theorem decodeTableWord_encode (i : Instr) : decodeTableWord 32 (encode i).toNat = some i := by
  unfold decodeTableWord
  rw [if_pos le_rfl, Nat.mod_eq_of_lt (encode i).isLt, BitVec.ofNat_toNat, BitVec.setWidth_eq,
    show decode (encode i) = .ok i from Machine.decode_encode i]

end Sys2Proof

open Sys2Proof Sys2Proof.Machine

/-- Settles O3: the words that decode to a command are the command's own, and it is well formed. -/
theorem encodeAndDecodeAgree : Obligations.EncodeAndDecodeAgree := by
  refine ⟨fun i _ => decode_encode i, fun w i h => ?_⟩
  obtain ⟨-, hword, -⟩ := commandWord_statement i
  exact ⟨eq_encode_of_decode h, eq_encode_of_decode h ▸ hword⟩

/-- Settles O1: the words of the opcode map are the encoded commands, and the others have an undefined OP. -/
theorem opcodeMapDecodes : Obligations.OpcodeMapDecodes := by
  refine ⟨decode_of_illegalOp rfl (.inl rfl), decode_encode .schedule, decode_encode .encBlock, decode_encode .decBlock,
    decode_encode .encBuf, decode_encode .decBuf, fun op hop => ?_, decodeTableWord_encode .schedule,
    decodeTableWord_encode .encBlock, decodeTableWord_encode .decBlock, decodeTableWord_encode .encBuf,
    decodeTableWord_encode .decBuf⟩
  have hword : (BitVec.ofNat 32 op.val).toNat = op.val := Nat.mod_eq_of_lt (by omega)
  exact decode_of_illegalOp (by omega) (.inr (by omega))

/-- Settles O2: one equation of the decoder for each clause. -/
theorem decoderIsTheSpecsDecoder : Obligations.DecoderIsTheSpecsDecoder := fun _ =>
  ⟨fun hrsv => ⟨_, decode_of_rsv hrsv⟩, fun hrsv =>
    ⟨decode_of_opcode (i := .schedule) hrsv, decode_of_opcode (i := .encBlock) hrsv, decode_of_opcode (i := .decBlock) hrsv,
      decode_of_opcode (i := .encBuf) hrsv, decode_of_opcode (i := .decBuf) hrsv,
      fun hop => ⟨_, decode_of_illegalOp hrsv hop⟩⟩⟩
end

section
/-! The order in which the key schedule writes its tables: P[0..17], then the words of S by their flat index, two by each
encryption of step 4 (40_key_schedule R135 to R140); and what SCHEDULE leaves (R141, R142): settles O19, O20 and O21. -/

namespace Sys2Proof.Machine

/-! ## The tables step 4 starts from -/

/-- The first `m` words of P have taken their key words. -/
theorem pAt_keyedLoop (key : Vector Word 18) (len : Nat) {m i : Nat} (hm : m ≤ 18) (hi : i < 18) :
    (loop m (fun i t => t.setP i (t.pAt i ^^^ keyWord key len i)) romCipher).pAt i =
      if i < m then romCipher.pAt i ^^^ keyWord key len i else romCipher.pAt i := by
  induction m with
  | zero => rfl
  | succ m ih =>
    rw [loop_succ, CipherState.pAt_setP _ _ _ _ (by omega)]
    by_cases h : i = m
    · subst h
      simp [ih (by omega)]
    · have hlt : i < m + 1 ↔ i < m := by omega
      simp only [if_neg h, ih (by omega), hlt]

theorem pAt_keyedTables (key : Vector Word 18) (len : Nat) {i : Nat} (hi : i < 18) :
    (keyedTables key len).pAt i = romCipher.pAt i ^^^ keyWord key len i := by
  rw [keyedTables, pAt_keyedLoop key len le_rfl hi, if_pos hi]

/-- The key words go into P alone. -/
theorem sAt_keyedTables (key : Vector Word 18) (len : Nat) (b : Fin 4) (y : Byte) :
    (keyedTables key len).sAt b y = romCipher.sAt b y := by
  unfold keyedTables
  induction 18 with
  | zero => rfl
  | succ m ih => rw [loop_succ, CipherState.sAt_setP, ih]

/-! ## The places of the words -/

/-- `get` reads the word at place `p` of the 1042 that step 4 writes, encryption `n` the places `2n` and `2n + 1`. -/
def ReadsPlace (get : CipherState → Word) (p : Nat) : Prop :=
  ∀ n lr t, n < 521 → get (writePair n lr t) = if p = 2 * n then lr.1 else if p = 2 * n + 1 then lr.2 else get t

theorem pAt_writePair {i : Nat} (hi : i < 18) (n : Nat) (lr : Word × Word) (t : CipherState) :
    (writePair n lr t).pAt i = if i = 2 * n then lr.1 else if i = 2 * n + 1 then lr.2 else t.pAt i := by
  unfold writePair
  by_cases h : n < 9
  · rw [if_pos h, CipherState.pAt_setP _ _ _ _ (by omega), CipherState.pAt_setP _ _ _ _ (by omega)]
    grind
  · rw [if_neg h, CipherState.pAt_setFlat, CipherState.pAt_setFlat, if_neg (by omega), if_neg (by omega)]

theorem sAt_writePair {n : Nat} (hn : n < 521) (lr : Word × Word) (t : CipherState) (b : Fin 4) (y : Byte) :
    (writePair n lr t).sAt b y =
      if 18 + (256 * b.val + y.toNat) = 2 * n then lr.1
      else if 18 + (256 * b.val + y.toNat) = 2 * n + 1 then lr.2 else t.sAt b y := by
  unfold writePair
  by_cases h : n < 9
  · rw [if_pos h, CipherState.sAt_setP, CipherState.sAt_setP, if_neg (by omega), if_neg (by omega)]
  · rw [if_neg h, CipherState.sAt_setFlat _ _ _ _ _ (by omega), CipherState.sAt_setFlat _ _ _ _ _ (by omega)]
    grind

theorem readsPlace_pAt {i : Nat} (hi : i < 18) : ReadsPlace (fun t => t.pAt i) i :=
  fun n lr t _ => pAt_writePair hi n lr t

theorem readsPlace_sAt (b : Fin 4) (y : Byte) : ReadsPlace (fun t => t.sAt b y) (18 + (256 * b.val + y.toNat)) :=
  fun _ lr t hn => sAt_writePair hn lr t b y

/-! ## The chain of encryptions -/

theorem chain_succ (key : Vector Word 18) (len n : Nat) : chain key len (n + 1) = chainStep n (chain key len n) :=
  loop_succ n chainStep _

section
variable {get : CipherState → Word} {p n : Nat} (h : ReadsPlace get p) (key : Vector Word 18) (len : Nat)
include h

/-- Encryption `n` writes its result at its two places, and no other. -/
theorem ReadsPlace.chain_succ (hn : n < 521) : get (chain key len (n + 1)).1 =
    if p = 2 * n then (chain key len (n + 1)).2.1
    else if p = 2 * n + 1 then (chain key len (n + 1)).2.2 else get (chain key len n).1 := by
  rw [Machine.chain_succ]
  exact h n _ _ hn

/-- A word keeps what the first `n` encryptions wrote there. -/
theorem ReadsPlace.chain_kept (hp : p < 2 * n) {m : Nat} (hnm : n ≤ m) (hm : m ≤ 521) :
    get (chain key len m).1 = get (chain key len n).1 := by
  induction m, hnm using Nat.le_induction with
  | base => rfl
  | succ m hnm ih => rw [h.chain_succ key len (by omega), if_neg (by omega), if_neg (by omega), ih (by omega)]

/-- The word at an encryption's first place is the left half of its result. -/
theorem ReadsPlace.scheduleTables_left (hp : p = 2 * n) (hn : n < 521) :
    get (scheduleTables key len) = (chain key len (n + 1)).2.1 := by
  rw [scheduleTables, h.chain_kept key len (n := n + 1) (by omega) (by omega) le_rfl, h.chain_succ key len hn, if_pos hp]

/-- The word at an encryption's second place is the right half of its result. -/
theorem ReadsPlace.scheduleTables_right (hp : p = 2 * n + 1) (hn : n < 521) :
    get (scheduleTables key len) = (chain key len (n + 1)).2.2 := by
  rw [scheduleTables, h.chain_kept key len (n := n + 1) (by omega) (by omega) le_rfl, h.chain_succ key len hn,
    if_neg (by omega), if_pos hp]

end

/-! ## What SCHEDULE's meaning leaves -/

theorem exec_schedule_of_nonpos {s : State} (h : sKeylen s.operands.keylen ≤ 0) :
    exec .schedule s = .next s.scheduleFailed := if_pos h

theorem exec_schedule_of_pos {s : State} (h : 0 < sKeylen s.operands.keylen) :
    exec .schedule s =
      .next (s.scheduleDone (scheduleTables s.operands.key (sKeylen s.operands.keylen).toNat)) :=
  if_neg (not_le.mpr h)

theorem cipher_of_exec_schedule {s t : State} (hlen : 0 < sKeylen s.operands.keylen) (h : exec .schedule s = .next t) :
    t.cipher = scheduleTables s.operands.key (sKeylen s.operands.keylen).toNat := by
  cases (exec_schedule_of_pos hlen).symm.trans h
  rfl

end Sys2Proof.Machine

open Sys2Proof Sys2Proof.Machine

/-- Settles O19: the refusal of a length that is not positive. -/
theorem scheduleRefusesNonPositiveLength : Obligations.ScheduleRefusesNonPositiveLength := fun _ =>
  exec_schedule_of_nonpos

/-- Settles O20: the completion of a positive length. -/
theorem scheduleCompletes : Obligations.ScheduleCompletes := fun _ => exec_schedule_of_pos

/-- Settles O21: the model's chain of encryptions, whose tables each clause reads at its word's place. -/
theorem scheduleIsTheChainOf521Encryptions : Obligations.ScheduleIsTheChainOf521Encryptions := by
  intro s t hlen h
  rw [cipher_of_exec_schedule hlen h]
  generalize s.operands.key = key
  generalize (sKeylen s.operands.keylen).toNat = len
  have p_step {n i : Nat} (hn : n < 521) (hi : i < 18) := (readsPlace_pAt hi).chain_succ key len hn
  have s_step {n : Nat} (b : Fin 4) (y : Byte) (hn : n < 521) := (readsPlace_sAt b y).chain_succ key len hn
  refine ⟨fun n => (chain key len n).1, fun n => (chain key len n).2, fun i hi => pAt_keyedTables key len hi,
    sAt_keyedTables key len, rfl, fun n _ => congrArg Prod.snd (chain_succ key len n),
    fun n i hn hi => p_step (by omega) hi, fun n b y hn => ?_, fun n i hn hi => ?_, fun n b y hn => ?_, rfl,
    fun n hn => ⟨?_, ?_⟩, fun n b y hn => ⟨fun hf => ?_, fun hf => ?_⟩⟩
  · rw [s_step b y (by omega), if_neg (by omega), if_neg (by omega)]
  · rw [p_step (by omega) hi, if_neg (by omega), if_neg (by omega)]
  · rw [s_step b y (by omega)]
    exact if_congr (by omega) rfl (if_congr (by omega) rfl rfl)
  · exact (readsPlace_pAt (by omega)).scheduleTables_left key len rfl (by omega)
  · exact (readsPlace_pAt (by omega)).scheduleTables_right key len rfl (by omega)
  · exact (readsPlace_sAt b y).scheduleTables_left key len (n := n + 9) (by omega) (by omega)
  · exact (readsPlace_sAt b y).scheduleTables_right key len (n := n + 9) (by omega) (by omega)

end

section
/-! Which key bytes the key words are made of (40_key_schedule R131 to R133, R143): settles O22 and O23. -/

namespace Sys2Proof.Machine

/-- A key word is its four cyclic key bytes. -/
theorem keyWord_congr {key key' : Vector Word 18} {len len' i j : Nat}
    (h : ∀ k, k < 4 → cyclicKeyByte key len (4 * i + k) = cyclicKeyByte key' len' (4 * j + k)) :
    keyWord key len i = keyWord key' len' j := by
  rw [keyWord, h 1 (by omega), h 2 (by omega), h 3 (by omega)]
  exact congrArg (be32 · _ _ _) (h 0 (by omega))

/-- The bytes of the source's buffer are whole turns of the key. -/
theorem dvd_bytes_of_buffer (len : Nat) : len ∣ 4 * (len / Nat.gcd len 4) := by
  rw [← Nat.mul_div_assoc 4 (Nat.gcd_dvd_left len 4), Nat.mul_comm]
  exact Nat.dvd_lcm_left len 4

/-- The key words read no byte past KeyByte(71), so a longer key counts as one of 72 bytes (40_key_schedule R143). -/
theorem mod_min_72 {n : Nat} (len : Nat) (hn : n < 72) : n % len = n % min len 72 := by
  rcases Nat.le_total len 72 with h | h
  · rw [Nat.min_eq_left h]
  · rw [Nat.min_eq_right h, Nat.mod_eq_of_lt (by omega), Nat.mod_eq_of_lt hn]

section
variable {key key' : Vector Word 18} {len len' : Nat} (hlen : 0 < len) (hmin : min len 72 = min len' 72)
  (hbytes : ∀ n, n < min len 72 → keyByte key n = keyByte key' n)
include hlen hmin hbytes

theorem cyclicKeyByte_congr {n : Nat} (hn : n < 72) : cyclicKeyByte key len n = cyclicKeyByte key' len' n := by
  unfold cyclicKeyByte
  rw [mod_min_72 len' hn, ← hmin, mod_min_72 len hn]
  exact hbytes _ (Nat.mod_lt _ (by omega))

theorem keyedTables_congr : keyedTables key len = keyedTables key' len' := by
  apply CipherState.ext_of_words
  · intro i hi
    have hword : keyWord key len i = keyWord key' len' i :=
      keyWord_congr fun k hk => cyclicKeyByte_congr hlen hmin hbytes (by omega)
    rw [pAt_keyedTables key len hi, pAt_keyedTables key' len' hi, hword]
  · intro b y
    rw [sAt_keyedTables, sAt_keyedTables]

theorem scheduleTables_congr : scheduleTables key len = scheduleTables key' len' := by
  simp only [scheduleTables, chain, keyedTables_congr hlen hmin hbytes]

end

end Sys2Proof.Machine

open Sys2Proof Sys2Proof.Machine

/-- Settles O22: `i` and its place in the buffer stand whole turns of the key apart. -/
theorem keyWordsEqualTheSourcesBuffer : Obligations.KeyWordsEqualTheSourcesBuffer := by
  intro key len i _
  refine keyWord_congr fun k _ => congrArg (keyByte key) ?_
  have hturn : 4 * (i % (len / Nat.gcd len 4)) ≡ 4 * i [MOD len] :=
    ((Nat.mod_modEq i _).mul_left' 4).of_dvd (dvd_bytes_of_buffer len)
  exact hturn.add_right k

/-- Settles O23: equal bytes below the length that counts make equal tables. -/
theorem cipherStateDependsOnlyOnTheKey : Obligations.CipherStateDependsOnlyOnTheKey := by
  intro s s' t t' hlen hlen' hmin hbytes h h'
  rw [cipher_of_exec_schedule hlen h, cipher_of_exec_schedule hlen' h']
  exact scheduleTables_congr (by omega) (by omega) fun n hn => hbytes n (by omega)

end

section
/-! SCHEDULE by micro-steps (40_key_schedule R137 to R139, 10_state R55): settles O48. -/

namespace Sys2Proof.Safety

open Sys2Proof.Machine

/-- A SCHEDULE of a positive length gives the same outcome from whatever tables and progress its run holds. -/
theorem exec_schedule_goTo {s : State} {r : Run} (hq : s.seq = .busy r) (hlen : 0 < sKeylen r.ops.keylen) (c : CipherState)
    (p : Progress) : exec .schedule (State.goTo { s with cipher := c } r p) = exec .schedule s := by
  rw [← State.operands_busy hq] at hlen
  have ho : (State.goTo { s with cipher := c } r p).operands = s.operands := (State.operands_busy hq).symm
  rw [exec_schedule_of_pos hlen, exec_schedule_of_pos (ho ▸ hlen), ho]
  rfl

/-- A micro-step of SCHEDULE refuses the length, goes on with a positive one, or leaves the tables of its key. -/
theorem tick_schedule_cases {s : State} {r : Run} (pick : Nat) (hinv : Inv s) (hq : s.seq = .busy r)
    (hd : decode r.word = .ok .schedule) :
    (sKeylen r.ops.keylen ≤ 0 ∧ s.tick pick = s.scheduleFailed) ∨
      (0 < sKeylen r.ops.keylen ∧ ∃ c p, s.tick pick = State.goTo { s with cipher := c } r p) ∨
      (0 < sKeylen r.ops.keylen ∧
        s.tick pick = s.scheduleDone (scheduleTables r.ops.key (sKeylen r.ops.keylen).toNat)) := by
  have hfits := (runFits_iff hd).mp (hinv.fits r hq)
  have htables := hinv.tables r hq
  cases hp : r.progress with
  | checks =>
    rw [tick_of_access hq hd (by rw [hp]; rfl), tickProgress, hp]
    by_cases hlen : sKeylen r.ops.keylen ≤ 0
    · exact .inl ⟨hlen, if_pos hlen⟩
    · exact .inr (.inl ⟨not_le.mp hlen, _, _, if_neg hlen⟩)
  | sched n round l h =>
    rw [hp] at hfits htables
    obtain ⟨-, hn, hround⟩ := hfits
    rw [tick_of_access hq hd (by rw [hp]; rfl), tickProgress, hp]
    rcases tickSched_cases hn hround htables with ⟨c, n', round', l', h', e, -⟩ | e
    · exact .inr (.inl ⟨htables.1, c, _, e⟩)
    · exact .inr (.inr ⟨htables.1, e⟩)
  | _ => simp [hp, progressFits] at hfits

end Sys2Proof.Safety

open Sys2Proof Sys2Proof.Machine Sys2Proof.Safety

/-- Settles O48: the meaning agrees with each way a micro-step of SCHEDULE can go. -/
theorem scheduleMicroStepsRefine : Obligations.ScheduleMicroStepsRefine := by
  intro s r pick hinv hq hd
  have ho := State.operands_busy hq
  rcases tick_schedule_cases pick hinv hq hd with ⟨hlen, e⟩ | ⟨hlen, c, p, e⟩ | ⟨hlen, e⟩ <;> rw [e]
  · exact exec_schedule_of_nonpos (ho ▸ hlen)
  · exact exec_schedule_goTo hq hlen c p
  · rw [← ho]
    exact exec_schedule_of_pos (ho ▸ hlen)

end

section
/-! The Feistel function by the bytes of its argument (41_feistel R151, R152): settles O25. -/

namespace Sys2Proof.Machine

/-- Four bytes are the bytes of the word they make (20_memory R81, R82). -/
theorem unbe32_be32 (a b c d : Byte) :
    unbe32 (be32 a b c d) 0 = a ∧ unbe32 (be32 a b c d) 1 = b ∧ unbe32 (be32 a b c d) 2 = c ∧
      unbe32 (be32 a b c d) 3 = d := by
  refine ⟨?_, ?_, ?_, ?_⟩ <;>
  · refine BitVec.eq_of_toNat_eq ?_
    rw [unbe32_toNat, be32_toNat]
    omega

/-- F splits its argument in the byte order of `unbe32` (41_feistel R151). -/
theorem feistel_eq_unbe32 (t : CipherState) (x : Word) :
    feistel t x = ((t.sAt 0 (unbe32 x 0) + t.sAt 1 (unbe32 x 1)) ^^^ t.sAt 2 (unbe32 x 2)) + t.sAt 3 (unbe32 x 3) := rfl

theorem feistel_be32 (t : CipherState) (a b c d : Byte) :
    feistel t (be32 a b c d) = ((t.sAt 0 a + t.sAt 1 b) ^^^ t.sAt 2 c) + t.sAt 3 d := by
  obtain ⟨ha, hb, hc, hd⟩ := unbe32_be32 a b c d
  rw [feistel_eq_unbe32, ha, hb, hc, hd]

end Sys2Proof.Machine

open Sys2Proof Sys2Proof.Machine

/-- Settles O25: `x` is `be32` of its bytes, and the words' operations are those of the numbers below `2 ^ 32`. -/
theorem feistelValue : Obligations.FeistelValue := by
  intro t x a b c d hx
  have hbytes : x = be32 a b c d := BitVec.eq_of_toNat_eq (hx.trans (be32_toNat a b c d).symm)
  rw [hbytes, feistel_be32, BitVec.toNat_add, BitVec.toNat_xor, BitVec.toNat_add]

end

section
/-! The 16 rounds of the block transform and how the other direction takes them back (42_block_transform R160 to R162):
settles O26 and O27. -/

namespace Sys2Proof.Machine

/-! ## The rounds as a recurrence on the two halves -/

section
variable {d : Dir} {t : CipherState} {l r : Nat → Word}
  (h : ∀ i, i < 16 → l (i + 1) = r i ^^^ feistel t (l i ^^^ t.pAt (keyIndex d i)) ∧
    r (i + 1) = l i ^^^ t.pAt (keyIndex d i))
include h

theorem loop_roundStep_eq {n : Nat} (hn : n ≤ 16) :
    loop n (roundStep d t) (l 0, r 0) = (l n, r n) := by
  induction n with
  | zero => rfl
  | succ n ih =>
    obtain ⟨hl, hr⟩ := h n hn
    rw [loop_succ, ih (by omega), hl, hr, roundStep]

/-- Halves that run through the 16 rounds, whitened (42_block_transform R160, R161). -/
theorem blockTransform_of_rounds :
    blockTransform d t (l 0, r 0) = (r 16 ^^^ t.pAt (keyIndex d 17), l 16 ^^^ t.pAt (keyIndex d 16)) := by
  rw [blockTransform, loop_roundStep_eq h le_rfl, whiten]

end

/-! ## Rounds taken back -/

/-- The other direction. -/
def opposite (d : Dir) : Dir :=
  match d with
  | .enc => .dec
  | .dec => .enc

/-- The two directions run through P from opposite ends (42_block_transform R161). -/
theorem keyIndex_opposite (d : Dir) {i j : Nat} (h : i + j = 17) : keyIndex (opposite d) i = keyIndex d j := by
  cases d with
  | enc => exact (show 17 - i = j by omega)
  | dec => exact (show i = 17 - j by omega)

/-- `whiten` with the words of steps `m` and `m + 1`: the end of a transform of `m` rounds. -/
def whitenAt (d : Dir) (t : CipherState) (m : Nat) (lr : Word × Word) : Word × Word :=
  (lr.2 ^^^ t.pAt (keyIndex d (m + 1)), lr.1 ^^^ t.pAt (keyIndex d m))

theorem whiten_eq_whitenAt (d : Dir) (t : CipherState) (lr : Word × Word) : whiten d t lr = whitenAt d t 16 lr := rfl

/-- A round of the other direction takes back the last of `m + 1` rounds: its key word cancels a whitening word, and the two
values of F are of the same half. -/
theorem roundStep_opposite_whitenAt (d : Dir) (t : CipherState) {n m : Nat} (h : n + m = 15) (lr : Word × Word) :
    roundStep (opposite d) t n (whitenAt d t (m + 1) (roundStep d t m lr)) = whitenAt d t m lr := by
  have hkey : keyIndex (opposite d) n = keyIndex d (m + 1 + 1) := keyIndex_opposite d (by omega)
  simp only [roundStep, whitenAt, hkey, BitVec.xor_assoc, BitVec.xor_self, BitVec.xor_zero]
  rw [BitVec.xor_comm (t.pAt _), ← BitVec.xor_assoc (feistel t _), BitVec.xor_self, BitVec.zero_xor]

/-- `n` rounds of the other direction take back the last `n` of 16. -/
theorem loop_opposite_whiten (d : Dir) (t : CipherState) (lr : Word × Word) {n m : Nat} (h : n + m = 16) :
    loop n (roundStep (opposite d) t) (blockTransform d t lr) = whitenAt d t m (loop m (roundStep d t) lr) := by
  induction n generalizing m with
  | zero =>
    obtain rfl : m = 16 := by omega
    exact whiten_eq_whitenAt d t _
  | succ n ih =>
    rw [loop_succ, ih (m := m + 1) (by omega), loop_succ, roundStep_opposite_whitenAt d t (by omega)]

theorem whiten_opposite_whitenAt (d : Dir) (t : CipherState) (lr : Word × Word) :
    whiten (opposite d) t (whitenAt d t 0 lr) = lr := by
  have hfirst : keyIndex (opposite d) 17 = keyIndex d 0 := keyIndex_opposite d rfl
  have hsecond : keyIndex (opposite d) 16 = keyIndex d 1 := keyIndex_opposite d rfl
  simp only [whiten, whitenAt, hfirst, hsecond, BitVec.xor_assoc, BitVec.xor_self, BitVec.xor_zero]

/-- The block transform of the other direction is the inverse (42_block_transform R162). -/
theorem blockTransform_opposite (d : Dir) (t : CipherState) (lr : Word × Word) :
    blockTransform (opposite d) t (blockTransform d t lr) = lr := by
  rw [blockTransform, loop_opposite_whiten d t lr (m := 0) rfl, loop_zero, whiten_opposite_whitenAt]

end Sys2Proof.Machine

open Sys2Proof Sys2Proof.Machine

/-- Settles O27: the inverse in either direction. -/
theorem decryptBlockInvertsEncryptBlock : Obligations.DecryptBlockInvertsEncryptBlock := fun t lr =>
  ⟨blockTransform_opposite .enc t lr, blockTransform_opposite .dec t lr⟩

/-- Settles O26: the recurrence of each direction, whose key index is `i` or `17 - i`. -/
theorem blockTransformIsSixteenRounds : Obligations.BlockTransformIsSixteenRounds := fun _ _ _ =>
  ⟨blockTransform_of_rounds (d := .enc), blockTransform_of_rounds (d := .dec)⟩

end

section
/-! The block commands (42_block_transform R165, R166): settles O28, O29 and O30. -/

namespace Sys2Proof.Machine

/-- A block command runs the block transform of its direction. -/
theorem exec_blockCommand {i : Instr} (hi : i = .encBlock ∨ i = .decBlock) (s : State) :
    exec i s = .next (s.blockCommand (blockTransform (cipherDir i) s.cipher)) := by
  rcases hi with rfl | rfl <;> rfl

theorem exec_block_of_unkeyed {i : Instr} (hi : i = .encBlock ∨ i = .decBlock) {s : State} (hk : s.keyed = false) :
    exec i s = .next (s.complete .notKeyed) := by
  rw [exec_blockCommand hi, State.blockCommand, hk]
  rfl

theorem exec_block_of_keyed {i : Instr} (hi : i = .encBlock ∨ i = .decBlock) {s : State} (hk : s.keyed = true) :
    exec i s = .next (s.blockDone (blockTransform (cipherDir i) s.cipher (s.operands.blkL, s.operands.blkR))) := by
  rw [exec_blockCommand hi, State.blockCommand, if_pos hk]

/-- Acceptance of a block command keeps KEYED. -/
theorem keyed_accept_block {i : Instr} (hi : i = .encBlock ∨ i = .decBlock) (s : State) :
    (s.accept (encode i)).keyed = s.keyed := by
  have hword : encode i ≠ 0x00000001#32 := by rcases hi with rfl | rfl <;> decide
  rw [State.accept_keyed, keyed_and_not_isSchedule, if_neg hword]

/-- A block command accepted with its own word works on BLK_L and BLK_R as they stand (10_state R56). -/
theorem exec_block_accept {i : Instr} (hi : i = .encBlock ∨ i = .decBlock) {s : State} (hk : s.keyed = true) :
    exec i (s.accept (encode i)) =
      .next ((s.accept (encode i)).blockDone (blockTransform (cipherDir i) s.cipher (s.blkL, s.blkR))) :=
  exec_block_of_keyed hi ((keyed_accept_block hi s).trans hk)

end Sys2Proof.Machine

open Sys2Proof Sys2Proof.Machine

/-- Settles O28: ENC_BLOCK by KEYED. -/
theorem encBlockCommand : Obligations.EncBlockCommand := fun _ =>
  ⟨exec_block_of_keyed (.inl rfl), exec_block_of_unkeyed (.inl rfl)⟩

/-- Settles O29: DEC_BLOCK by KEYED. -/
theorem decBlockCommand : Obligations.DecBlockCommand := fun _ =>
  ⟨exec_block_of_keyed (.inr rfl), exec_block_of_unkeyed (.inr rfl)⟩

/-- Settles O30: DEC_BLOCK is accepted with ENC_BLOCK's result in BLK_L and BLK_R, and takes it back. -/
theorem decBlockRestoresTheBlock : Obligations.DecBlockRestoresTheBlock := by
  intro s hk _
  have henc := exec_block_accept (.inl rfl) hk
  generalize hlr : blockTransform (cipherDir .encBlock) s.cipher (s.blkL, s.blkR) = lr at henc
  have hk' : ((s.accept (encode .encBlock)).blockDone lr).keyed = true := (keyed_accept_block (.inl rfl) s).trans hk
  have hdec := exec_block_accept (.inr rfl) hk'
  have hrestored : blockTransform .dec s.cipher lr = (s.blkL, s.blkR) := by
    rw [← hlr]
    exact blockTransform_opposite .enc s.cipher _
  exact ⟨_, _, henc, hdec, congrArg Prod.fst hrestored, congrArg Prod.snd hrestored,
    (keyed_accept_block (.inr rfl) _).trans hk', rfl⟩

end

section
/-! The block commands by micro-steps (42_block_transform R160, R161, R164, 10_state R55): settles O49. -/

namespace Sys2Proof.Safety

open Sys2Proof.Machine

/-- A round of a block command goes on to the transform's halves after it, or ends with the transform's result. -/
theorem tickBlock_cases {d : Dir} {s : State} {r : Run} {round : Nat} {l h : Word} (hround : round ≤ 15)
    (hp : BlockProgress d s.cipher s.keyed r.ops (.block round l h)) :
    (∃ round' l' h', tickBlock d round (l, h) r s = s.goTo r (.block round' l' h') ∧ round' ≤ 15 ∧
      BlockProgress d s.cipher s.keyed r.ops (.block round' l' h')) ∨
    tickBlock d round (l, h) r s = s.blockDone (blockTransform d s.cipher (r.ops.blkL, r.ops.blkR)) := by
  obtain ⟨hkeyed, hhalves⟩ := hp
  have next := roundStep_eq_loop hhalves
  unfold tickBlock
  by_cases hlast : round < 15
  · exact .inl ⟨round + 1, _, _, if_pos hlast, hlast, hkeyed, next⟩
  · obtain rfl : round = 15 := by omega
    exact .inr ((if_neg hlast).trans (congrArg (fun lr => s.blockDone (whiten d s.cipher lr)) next))

/-- A micro-step of a block command refuses without a key, goes on to progress that fits and is right, or completes with the
transform's result. -/
theorem tick_block_cases {s : State} {r : Run} {i : Instr} (pick : Nat) (hq : s.seq = .busy r) (hfits : RunFits r)
    (hd : decode r.word = .ok i) (hi : i = .encBlock ∨ i = .decBlock)
    (hp : BlockProgress (cipherDir i) s.cipher s.keyed r.ops r.progress) :
    (s.keyed = false ∧ s.tick pick = s.complete .notKeyed) ∨
      (∃ p, s.tick pick = s.goTo r p ∧ progressFits i r.ops p ∧ BlockProgress (cipherDir i) s.cipher s.keyed r.ops p) ∨
      (s.keyed = true ∧
        s.tick pick = s.blockDone (blockTransform (cipherDir i) s.cipher (r.ops.blkL, r.ops.blkR))) := by
  rw [runFits_iff hd] at hfits
  cases hprogress : r.progress with
  | checks =>
    have hchecks : tickChecks i r s =
        if s.keyed then s.goTo r (.block 0 r.ops.blkL r.ops.blkR) else s.complete .notKeyed := by
      rcases hi with rfl | rfl <;> rfl
    rw [tick_of_access hq hd (by rw [hprogress]; rfl), tickProgress, hprogress]
    dsimp only
    rw [hchecks]
    cases hk : s.keyed with
    | false => exact .inl ⟨rfl, rfl⟩
    | true => exact .inr (.inl ⟨_, rfl, ⟨hi, Nat.zero_le _⟩, rfl, rfl⟩)
  | block round l h =>
    rw [hprogress] at hfits hp
    rw [tick_of_access hq hd (by rw [hprogress]; rfl), tickProgress, hprogress]
    rcases tickBlock_cases hfits.2 hp with ⟨round', l', h', e, hround', hp'⟩ | e
    · exact .inr (.inl ⟨_, e, ⟨hi, hround'⟩, hp'⟩)
    · exact .inr (.inr ⟨hp.1, e⟩)
  | _ => rcases hi with rfl | rfl <;> simp [hprogress, progressFits] at hfits

end Sys2Proof.Safety

open Sys2Proof Sys2Proof.Machine Sys2Proof.Safety

/-- Settles O49: the meaning agrees with each way a micro-step of a block command can go. -/
theorem blockMicroStepsRefine : Obligations.BlockMicroStepsRefine := by
  intro s r i pick hq hfits hd hi hp
  rcases tick_block_cases pick hq hfits hd hi hp with ⟨hk, e⟩ | ⟨p, e, hfits', hp'⟩ | ⟨hk, e⟩ <;> rw [e]
  · exact exec_block_of_unkeyed hi hk
  · have hnext : RunFits { r with progress := p } := (runFits_iff (r := { r with progress := p }) hd).mpr hfits'
    exact ⟨exec_goTo hq p r.out i, rfl, rfl, _, rfl, rfl, rfl, hnext, hp'⟩
  · rw [← State.operands_busy hq]
    exact exec_block_of_keyed hi hk

end

section
/-! What a buffer command answers and leaves in memory (43_buffer_transform R181 to R191, 60_exceptions R205 to R207, R210): settles
O32 to O35 and O37 to O39. -/

namespace Sys2Proof.Machine

open Sys2Proof.Safety

/-! ## The checks -/

/-- A buffer command runs the block transform of its direction over its buffer. -/
theorem exec_buffer {i : Instr} (hi : i = .encBuf ∨ i = .decBuf) (s : State) :
    exec i s = .next (s.bufferCommand (blockTransform (cipherDir i) s.cipher)) := by
  rcases hi with rfl | rfl <;> rfl

theorem exec_buffer_of_refusal {i : Instr} (hi : i = .encBuf ∨ i = .decBuf) {s : State} {code : ErrCode}
    (h : bufferRefusal s.keyed s.operands = some code) : exec i s = .next (s.complete code) := by
  rw [exec_buffer hi, State.bufferCommand, h]

theorem bufferRefusal_eq_range {o : Operands} (hlen : 0 < o.len.toNat)
    (h : o.src.toNat + o.len.toNat > 2 ^ 32 ∨ o.dst.toNat + o.len.toNat > 2 ^ 32) :
    bufferRefusal true o = some .range := by
  have hrange : 0 < o.len.toNat ∧
      (o.src.toNat + o.len.toNat > Config.addressSpace ∨ o.dst.toNat + o.len.toNat > Config.addressSpace) := ⟨hlen, h⟩
  exact if_pos hrange

theorem bufferRefusal_eq_overlap {o : Operands} {a : Nat} (hsrc : o.src.toNat + o.len.toNat ≤ 2 ^ 32)
    (hdst : o.dst.toNat + o.len.toNat ≤ 2 ^ 32) (hne : o.src ≠ o.dst)
    (has : o.src.toNat ≤ a ∧ a < o.src.toNat + o.len.toNat) (had : o.dst.toNat ≤ a ∧ a < o.dst.toNat + o.len.toNat) :
    bufferRefusal true o = some .overlap := by
  have hrange : ¬ (0 < o.len.toNat ∧
      (o.src.toNat + o.len.toNat > Config.addressSpace ∨ o.dst.toNat + o.len.toNat > Config.addressSpace)) := by
    dsimp only [Config.addressSpace]
    omega
  have hne' : o.src.toNat ≠ o.dst.toNat := fun h => hne (BitVec.eq_of_toNat_eq h)
  have hoverlap : 0 < o.len.toNat ∧ o.src.toNat ≠ o.dst.toNat ∧ o.src.toNat < o.dst.toNat + o.len.toNat ∧
      o.dst.toNat < o.src.toNat + o.len.toNat := ⟨by omega, hne', by omega, by omega⟩
  exact (if_neg hrange).trans (if_pos hoverlap)

/-! ## An empty buffer -/

theorem bufferMemory_of_empty {o : Operands} (h : o.len = 0#32) (T : Word × Word → Word × Word) (p : Platform) (m : Memory) :
    bufferMemory T p o m = some m := by
  have hblocks : o.blocks = 0 := by
    rw [Operands.blocks, h]
    rfl
  have htail : o.len.toNat % 8 = 0 := by
    rw [h]
    rfl
  rw [bufferMemory, hblocks, htail]
  exact ite_self _

/-- Races can spoil nothing of an empty buffer, and nothing is left to observe. -/
theorem bufferDone_of_empty {o : Operands} (h : o.len = 0#32) (s : State) (raced : List Nat) :
    s.bufferDone o raced s.mem = s.complete .ok := by
  have howed : s.owed o = s.unobserved := if_pos h
  have hdraw (hit : Nat → Bool) : State.drawDest s o hit = s := by
    rw [State.drawDest, h]
    rfl
  have hsettle : s.settleRaces o raced = s := by
    rw [State.settleRaces, hdraw, ite_self]
  rw [State.bufferDone, howed]
  exact congrArg (State.complete · .ok) hsettle

theorem bufferCommand_of_empty {s : State} (hk : s.keyed = true) (hlen : s.operands.len = 0#32)
    (T : Word × Word → Word × Word) : s.bufferCommand T = s.complete .ok := by
  have hchecks : ChecksPass s.keyed s.operands := ⟨hk, .inl (by rw [hlen]; rfl)⟩
  simp only [State.bufferCommand, bufferRefusal_eq_none.mpr hchecks, bufferMemory_of_empty hlen, bufferDone_of_empty hlen]

/-! ## The result, block by block -/

theorem resultByte_of_block (T : Word × Word → Word × Word) (m : Memory) (src : Nat) {nb j k : Nat} (hj : j < nb)
    (hk : k < 8) : resultByte T m src nb (8 * j + k) = blockByte (T (sourceBlock m src j)) k := by
  rw [resultByte, if_pos (by omega), Nat.mul_add_div (by omega), Nat.div_eq_of_lt hk, Nat.mul_add_mod,
    Nat.mod_eq_of_lt hk, Nat.add_zero]

theorem resultByte_of_tail (T : Word × Word → Word × Word) (m : Memory) (src : Nat) {nb off : Nat} (h : 8 * nb ≤ off) :
    resultByte T m src nb off = m.read (src + off) := by
  rw [resultByte, if_neg (by omega)]

/-- A byte of a whole block or a trailing byte (43_buffer_transform R183). -/
theorem offset_cases (nb off : Nat) : (∃ j k, j < nb ∧ k < 8 ∧ off = 8 * j + k) ∨ 8 * nb ≤ off := by
  rcases Nat.lt_or_ge off (8 * nb) with h | h
  · exact .inl ⟨off / 8, off % 8, by omega, Nat.mod_lt _ (by omega), (Nat.div_add_mod off 8).symm⟩
  · exact .inr h

/-- Blocks of equal bytes are equal, wherever they lie (43_buffer_transform R190). -/
theorem sourceBlock_eq_of_bytes {m m' : Memory} {src src' j j' : Nat}
    (h : ∀ k, k < 8 → m.read (src + 8 * j + k) = m'.read (src' + 8 * j' + k)) :
    sourceBlock m src j = sourceBlock m' src' j' := by
  have h0 : m.read (src + 8 * j) = m'.read (src' + 8 * j') := h 0 (by omega)
  simp only [sourceBlock, h0, h 1, h 2, h 3, h 4, h 5, h 6, h 7, Nat.reduceLT]

/-- Bytes that are those of a pair make up the pair (20_memory R83). -/
theorem sourceBlock_of_blockBytes {m : Memory} {src j : Nat} {lr : Word × Word}
    (h : ∀ k, k < 8 → m.read (src + 8 * j + k) = blockByte lr k) : sourceBlock m src j = lr := by
  have h0 : m.read (src + 8 * j) = blockByte lr 0 := h 0 (by omega)
  simp only [sourceBlock, h0, h 1, h 2, h 3, h 4, h 5, h 6, h 7, Nat.reduceLT]
  exact Prod.ext (be32_unbe32 _) (be32_unbe32 _)

/-- The bytes of a block's halves are the block's (20_memory R83). -/
theorem blockByte_sourceBlock (m : Memory) (src j : Nat) {k : Nat} (hk : k < 8) :
    blockByte (sourceBlock m src j) k = m.read (src + 8 * j + k) := by
  obtain ⟨h0, h1, h2, h3⟩ := unbe32_be32 (m.read (src + 8 * j)) (m.read (src + 8 * j + 1)) (m.read (src + 8 * j + 2))
    (m.read (src + 8 * j + 3))
  obtain ⟨h4, h5, h6, h7⟩ := unbe32_be32 (m.read (src + 8 * j + 4)) (m.read (src + 8 * j + 5)) (m.read (src + 8 * j + 6))
    (m.read (src + 8 * j + 7))
  rcases (by omega : k = 0 ∨ k = 1 ∨ k = 2 ∨ k = 3 ∨ k = 4 ∨ k = 5 ∨ k = 6 ∨ k = 7) with
    rfl | rfl | rfl | rfl | rfl | rfl | rfl | rfl
  exacts [h0, h1, h2, h3, h4, h5, h6, h7]

theorem HasResult.read_block {T : Word × Word → Word × Word} {o : Operands} {m m' : Memory} (h : HasResult T o m m')
    {j k : Nat} (hj : j < o.blocks) (hk : k < 8) :
    m'.read (o.dst.toNat + 8 * j + k) = blockByte (T (sourceBlock m o.src.toNat j)) k := by
  have hlen := blocks_add_tail o
  rw [Nat.add_assoc, h.dest _ (by omega), resultByte_of_block _ _ _ hj hk]

theorem HasResult.read_tail {T : Word × Word → Word × Word} {o : Operands} {m m' : Memory} (h : HasResult T o m m')
    {off : Nat} (ho : 8 * o.blocks ≤ off) (hlt : off < o.len.toNat) :
    m'.read (o.dst.toNat + off) = m.read (o.src.toNat + off) := by
  rw [h.dest off hlt, resultByte_of_tail _ _ _ ho]

/-- A destination block holds the words of the transform. -/
theorem HasResult.sourceBlock {T : Word × Word → Word × Word} {o : Operands} {m m' : Memory} (h : HasResult T o m m')
    {j : Nat} (hj : j < o.blocks) : sourceBlock m' o.dst.toNat j = T (sourceBlock m o.src.toNat j) :=
  sourceBlock_of_blockBytes fun _ hk => h.read_block hj hk

/-- A second command over the result of the first, with a transform that takes the first one back, restores the source
(43_buffer_transform R181). -/
theorem HasResult.restores {T T' : Word × Word → Word × Word} {o o' : Operands} {m m' m'' : Memory}
    (h : HasResult T o m m') (h' : HasResult T' o' m' m'') (hT : ∀ lr, T' (T lr) = lr) (hsrc : o'.src = o.dst)
    (hlen : o'.len = o.len) {off : Nat} (ho : off < o.len.toNat) : m''.read (o'.dst.toNat + off) = m.read (o.src.toNat + off) := by
  have hblocks : o'.blocks = o.blocks := by rw [Operands.blocks, hlen, Operands.blocks]
  rcases offset_cases o.blocks off with ⟨j, k, hj, hk, rfl⟩ | hge
  · rw [← Nat.add_assoc, ← Nat.add_assoc, h'.read_block (hblocks ▸ hj) hk, hsrc, h.sourceBlock hj, hT,
      blockByte_sourceBlock _ _ _ hk]
  · rw [h'.read_tail (hblocks ▸ hge) (hlen ▸ ho), hsrc, h.read_tail hge ho]

/-! ## Bus errors -/

theorem blocksOp_clear {T : Word × Word → Word × Word} {p : Platform} {src dst n : Nat} {m m' : Memory} (hw : Memory.wf m)
    (h : blocksOp T p src dst n m = some m') {off : Nat} (ho : off < 8 * n) :
    p.busErr ⟨.read, src + off⟩ = false ∧ p.busErr ⟨.write, dst + off⟩ = false := by
  induction n generalizing m' with
  | zero => omega
  | succ n ih =>
    rw [blocksOp_succ, Option.bind_eq_some_iff] at h
    obtain ⟨m1, h1, h2⟩ := h
    by_cases hn : off < 8 * n
    · exact ih h1 hn
    · obtain ⟨hclear, -⟩ := blockOp_some (blocksOp_wf hw h1) h2
      obtain ⟨k, rfl⟩ : ∃ k, off = 8 * n + k := ⟨off - 8 * n, by omega⟩
      rw [← Nat.add_assoc, ← Nat.add_assoc]
      exact hclear k (by omega)

theorem copyBytes_clear {p : Platform} {src dst n : Nat} {m m' : Memory} (h : copyBytes p src dst n m = some m')
    {off : Nat} (ho : off < n) : p.busErr ⟨.read, src + off⟩ = false ∧ p.busErr ⟨.write, dst + off⟩ = false := by
  induction n generalizing m' with
  | zero => omega
  | succ n ih =>
    rw [copyBytes_succ, Option.bind_eq_some_iff] at h
    obtain ⟨m1, h1, h2⟩ := h
    by_cases hn : off < n
    · exact ih h1 hn
    · obtain rfl : off = n := by omega
      obtain ⟨hread, hwrite, -⟩ := copyByte_some.mp h2
      exact ⟨hread, hwrite⟩

/-- A buffer that was run through met no bus error. -/
theorem busClear_of_bufferMemory {T : Word × Word → Word × Word} {p : Platform} {o : Operands} {m m' : Memory}
    (hw : Memory.wf m) (h : bufferMemory T p o m = some m') : BusClear p o := by
  have hlen := blocks_add_tail o
  simp only [bufferMemory, Option.bind_eq_bind, Option.bind_eq_some_iff] at h
  obtain ⟨m1, h1, h2⟩ := h
  intro off ho
  by_cases hb : off < 8 * o.blocks
  · exact blocksOp_clear hw h1 hb
  · unfold accessedBytes at ho
    split at ho
    · omega
    · rw [if_neg ‹_›] at h2
      obtain ⟨k, rfl⟩ : ∃ k, off = 8 * o.blocks + k := ⟨off - 8 * o.blocks, by omega⟩
      rw [← Nat.add_assoc, ← Nat.add_assoc]
      exact copyBytes_clear h2 (by omega)

/-- A buffer command that passes its checks fails when one of its accesses gets an error response. -/
theorem exec_buffer_failed {i : Instr} {s : State} (hi : i = .encBuf ∨ i = .decBuf) (hw : Memory.wf s.mem)
    (hc : ChecksPass s.keyed s.operands) (hb : ¬ BusClear s.platform s.operands) :
    exec i s = .next (s.bufferFailed s.operands) := by
  have hnone : bufferMemory (blockTransform (cipherDir i) s.cipher) s.platform s.operands s.mem = none :=
    Option.eq_none_iff_forall_ne_some.mpr fun _ hm => hb (busClear_of_bufferMemory hw hm)
  rw [exec_buffer hi]
  simp only [State.bufferCommand, bufferRefusal_eq_none.mpr hc, hnone]

/-! ## The commands' outcomes -/

/-- A buffer command that is not raced and completes with OK leaves its result in memory. -/
theorem hasResult_of_exec {i : Instr} {s t : State} (hi : i = .encBuf ∨ i = .decBuf) (hw : Memory.wf s.mem)
    (hr : s.raced = []) (h : exec i s = .next t) (hok : t.err = .ok) :
    HasResult (blockTransform (cipherDir i) s.cipher) s.operands s.mem t.mem := by
  cases (exec_buffer hi s).symm.trans h
  rcases bufferCommand_cases hw (blockTransform (cipherDir i) s.cipher) with ⟨code, hcode, e⟩ | e | ⟨m, e, -, hres⟩
  · rw [e] at hok
    exact absurd hok hcode
  · rw [e] at hok
    cases hok
  · have hmem : (s.bufferCommand (blockTransform (cipherDir i) s.cipher)).mem = m := by rw [e, hr]; rfl
    rwa [hmem]

/-- A buffer command that passes its checks and meets no bus error completes with OK. -/
theorem exec_buffer_ok {i : Instr} {s t : State} (hi : i = .encBuf ∨ i = .decBuf) (hw : Memory.wf s.mem)
    (hc : ChecksPass s.keyed s.operands) (hb : BusClear s.platform s.operands) (h : exec i s = .next t) :
    t.err = .ok ∧ Memory.wf t.mem := by
  cases (exec_buffer hi s).symm.trans h
  obtain ⟨m, e, hm, -⟩ := bufferCommand_completes hw hc hb (blockTransform (cipherDir i) s.cipher)
  rw [e]
  exact ⟨State.bufferDone_err .., bufferDone_wf hm s _ _⟩

end Sys2Proof.Machine

open Sys2Proof Sys2Proof.Machine Sys2Proof.Safety

/-- Settles O32. -/
theorem bufferRangeRefused : Obligations.BufferRangeRefused := by
  intro i s hi hk hlen h
  refine exec_buffer_of_refusal hi ?_
  rw [hk]
  exact bufferRefusal_eq_range hlen h

/-- Settles O33: the shared byte makes the ranges overlap. -/
theorem bufferOverlapRefused : Obligations.BufferOverlapRefused := by
  intro i s a hi hk hsrc hdst hne has had
  refine exec_buffer_of_refusal hi ?_
  rw [hk]
  exact bufferRefusal_eq_overlap hsrc hdst hne has had

/-- Settles O34: an empty buffer passes the checks, and neither the iterator nor races touch memory. -/
theorem emptyBufferCompletes : Obligations.EmptyBufferCompletes := fun _ s hi hk hlen =>
  (exec_buffer hi s).trans (congrArg _ (bufferCommand_of_empty hk hlen _))

/-- Settles O35: the command completes with the result in its destination, and there is no race to settle. -/
theorem bufferResult : Obligations.BufferResult := by
  intro i s T hi hw hc hb hraced
  obtain ⟨m, hcommand, hm, hresult⟩ := bufferCommand_completes hw hc hb T
  refine ⟨m, ?_, hm, hresult.dest, hresult.frame⟩
  rw [exec_bufferCommand hi, hcommand, hraced]
  rfl

/-- Settles O37: the command fails, which draws its destination. -/
theorem busErrorCompletes : Obligations.BusErrorCompletes := by
  intro i s hi hw hc hb
  refine ⟨(s.bufferFailed s.operands).mem, (s.bufferFailed s.operands).draws, ?_, fun a ha => read_bufferFailed hw ha⟩
  exact exec_buffer_failed hi hw hc hb

/-- Settles O38: DecryptBlock takes EncryptBlock back in each block. -/
theorem decBufRestoresThePlaintext : Obligations.DecBufRestoresThePlaintext := by
  intro s t u v hw hrs hru hcs hcu hbs hbu henc hmem hcipher hsrc hlen hdec off ho
  obtain ⟨hokt, hwt⟩ := exec_buffer_ok (.inl rfl) hw hcs hbs henc
  have hwu : Memory.wf u.mem := hmem ▸ hwt
  obtain ⟨hokv, -⟩ := exec_buffer_ok (.inr rfl) hwu hcu hbu hdec
  have henc := hasResult_of_exec (.inl rfl) hw hrs henc hokt
  have hdec := hasResult_of_exec (.inr rfl) hwu hru hdec hokv
  rw [hmem, hcipher] at hdec
  exact henc.restores hdec (blockTransform_opposite .enc s.cipher) hsrc hlen ho

/-- Settles O39: a result block is the transform of its source block. -/
theorem blocksAreIndependent : Obligations.BlocksAreIndependent := by
  intro i s s' t t' j j' hi hw hw' hr hr' hcipher h h' hok hok' hj hj' hbytes k hk
  have hresult := hasResult_of_exec hi hw hr h hok
  have hresult' := hasResult_of_exec hi hw' hr' h' hok'
  rw [hresult.read_block hj hk, hresult'.read_block hj' hk, hcipher, sourceBlock_eq_of_bytes hbytes]

end

section
/-! What the micro-steps of a running buffer command do, and what they and every other step keep right (43_buffer_transform R182,
R184, R188, R191): settles O50 and O51. -/

namespace Sys2Proof.Safety

open Sys2Proof.Machine

/-! ## The accesses a buffer command can make next -/

/-- The progress is one of a buffer command, and the accesses to come lie in its buffers (43_buffer_transform R183, R184). -/
def InBuffer (o : Operands) (p : Progress) : Prop :=
  match p with
  | .checks => True
  | .read j _ _ => j < o.blocks
  | .rounds j round _ _ => j < o.blocks ∧ round ≤ 15
  | .write j _ _ _ => j < o.blocks
  | .tail toRead toWrite => ∀ off ∈ toRead ++ toWrite.map Prod.fst, o.src ≠ o.dst ∧ off < o.len.toNat
  | .sched _ _ _ _ => False
  | .block _ _ _ => False

/-- An access to a byte that the command may access (43_buffer_transform R188). -/
def OwnAccess (o : Operands) (x : Access) : Prop :=
  ∃ off, off < accessedBytes o ∧ (x = ⟨.read, o.src.toNat + off⟩ ∨ x = ⟨.write, o.dst.toNat + off⟩)

theorem OwnAccess.clear {p : Platform} {o : Operands} {x : Access} (h : OwnAccess o x) (hb : BusClear p o) :
    p.busErr x = false := by
  obtain ⟨off, ho, rfl | rfl⟩ := h
  · exact (hb off ho).1
  · exact (hb off ho).2

theorem lt_accessedBytes_of_block {o : Operands} {j k : Nat} (hj : j < o.blocks) (hk : k < 8) :
    8 * j + k < accessedBytes o := by
  have hlen := blocks_add_tail o
  unfold accessedBytes
  split <;> omega

theorem lt_accessedBytes_of_tail {o : Operands} {off : Nat} (h : o.src ≠ o.dst ∧ off < o.len.toNat) :
    off < accessedBytes o := by
  rw [accessedBytes, if_neg h.1]
  exact h.2

theorem ownAccess_of_nextAccess {o : Operands} {p : Progress} {pick : Nat} {x : Access} (hp : InBuffer o p)
    (h : nextAccess o pick p = some x) : OwnAccess o x := by
  cases p with
  | read j todo b =>
    obtain ⟨k, -, rfl⟩ := Option.map_eq_some_iff.mp h
    exact ⟨8 * j + k.val, lt_accessedBytes_of_block hp k.isLt, .inl (by rw [Nat.add_assoc])⟩
  | write j todo l r =>
    obtain ⟨k, -, rfl⟩ := Option.map_eq_some_iff.mp h
    exact ⟨8 * j + k.val, lt_accessedBytes_of_block hp k.isLt, .inr (by rw [Nat.add_assoc])⟩
  | tail toRead toWrite =>
    obtain ⟨y, hy, rfl⟩ := Option.map_eq_some_iff.mp h
    rcases List.mem_append.mp (tailChoice_mem hy) with hy | hy
    · obtain ⟨m, hm, rfl⟩ := List.mem_map.mp hy
      exact ⟨m, lt_accessedBytes_of_tail (hp m (List.mem_append_left _ hm)), .inl rfl⟩
    · obtain ⟨c, hc, rfl⟩ := List.mem_map.mp hy
      exact ⟨c.1, lt_accessedBytes_of_tail (hp c.1 (List.mem_append_right _ (List.mem_map_of_mem hc))), .inr rfl⟩
  | _ => cases h

/-! ## Everything a micro-step of a running buffer command can do -/

/-- A micro-step of a buffer command in direction `d`, with operands `o`, from one progress to the next: the access it makes, if
any, and the byte it writes, if any (43_buffer_transform R182, R184, R188). -/
inductive BufferMove (d : Dir) (s : State) (o : Operands) :
    Progress → Option Access → Progress → List Host.Cell → Prop where
  /-- The checks passed. -/
  | begin : BufferMove d s o .checks none (o.atBlock 0) []
  /-- A byte of the block is read. -/
  | readByte {j : Nat} {todo todo' : List (Fin 8)} {b : Vector Byte 8} (k : Fin 8) (hk : todo.Perm (k :: todo')) :
      BufferMove d s o (.read j todo b) (some ⟨.read, o.src.toNat + 8 * j + k.val⟩)
        (.read j todo' (b.set k.val (s.mem.read (o.src.toNat + 8 * j + k.val)) k.isLt)) []
  /-- The whole block is read. -/
  | toRounds {j : Nat} {b : Vector Byte 8} :
      BufferMove d s o (.read j [] b) none (.rounds j 0 (blockLeft b) (blockRight b)) []
  /-- A round that is not the last. -/
  | round {j n : Nat} {l r : Word} (hn : n < 15) :
      BufferMove d s o (.rounds j n l r) none
        (.rounds j (n + 1) (roundStep d s.cipher n (l, r)).1 (roundStep d s.cipher n (l, r)).2) []
  /-- The last round. -/
  | toWrite {j : Nat} {l r : Word} :
      BufferMove d s o (.rounds j 15 l r) none
        (.write j allEight (whiten d s.cipher (roundStep d s.cipher 15 (l, r))).1
          (whiten d s.cipher (roundStep d s.cipher 15 (l, r))).2) []
  /-- A byte of the block is written. -/
  | writeByte {j : Nat} {todo todo' : List (Fin 8)} {l r : Word} (k : Fin 8) (hk : todo.Perm (k :: todo')) :
      BufferMove d s o (.write j todo l r) (some ⟨.write, o.dst.toNat + 8 * j + k.val⟩) (.write j todo' l r)
        [(o.dst.toNat + 8 * j + k.val, blockByte (l, r) k.val)]
  /-- The whole block is written. -/
  | nextBlock {j : Nat} {l r : Word} : BufferMove d s o (.write j [] l r) none (o.atBlock (j + 1)) []
  /-- A trailing byte is read. -/
  | readTail {toRead toRead' : List Nat} {toWrite : List (Nat × Byte)} (m : Nat) (hm : toRead.Perm (m :: toRead')) :
      BufferMove d s o (.tail toRead toWrite) (some ⟨.read, o.src.toNat + m⟩)
        (.tail toRead' ((m, s.mem.read (o.src.toNat + m)) :: toWrite)) []
  /-- A trailing byte is written. -/
  | writeTail {toRead : List Nat} {toWrite toWrite' : List (Nat × Byte)} (c : Nat × Byte)
      (hc : toWrite.Perm (c :: toWrite')) :
      BufferMove d s o (.tail toRead toWrite) (some ⟨.write, o.dst.toNat + c.1⟩) (.tail toRead toWrite')
        [(o.dst.toNat + c.1, c.2)]

/-- What is chosen of a list and what is left of it make up the list. -/
theorem perm_chosen_unchosen {α : Type} {pick : Nat} {todo : List α} {x : α} (h : chosen pick todo = some x) :
    todo.Perm (x :: unchosen pick todo) := by
  obtain ⟨hlt, rfl⟩ := List.getElem?_eq_some_iff.mp h
  exact (List.getElem_cons_eraseIdx_perm hlt).symm

theorem eq_nil_of_chosen {α : Type} {pick : Nat} {todo : List α} (h : chosen pick todo = none) : todo = [] := by
  rcases chosen_cases pick todo with ⟨hnil, -⟩ | ⟨x, hx, -⟩
  · exact hnil
  · cases h.symm.trans hx

theorem tickRounds_move {d : Dir} {s : State} {r : Run} {j n : Nat} {l h : Word} (hn : n ≤ 15) :
    ∃ p, BufferMove d s r.ops (.rounds j n l h) none p [] ∧ tickRounds d j n (l, h) r s = s.goTo r p := by
  unfold tickRounds
  by_cases hlast : n < 15
  · exact ⟨_, .round hlast, if_pos hlast⟩
  · obtain rfl : n = 15 := by omega
    exact ⟨_, .toWrite, if_neg hlast⟩

/-- A micro-step of a buffer command past its checks that meets no bus error: it completes the command when nothing is left to
copy, else it makes a move. -/
theorem tickProgress_buffer {s : State} {r : Run} {i : Instr} (pick : Nat) (hp : InBuffer r.ops r.progress)
    (hc : r.progress ≠ .checks) :
    (r.progress = .tail [] [] ∧ tickProgress pick i r s = s.bufferDone r.ops r.raced (commit r.out s.mem)) ∨
      ∃ p cells, BufferMove (cipherDir i) s r.ops r.progress (nextAccess r.ops pick r.progress) p cells ∧
        tickProgress pick i r s = s.goTo { r with out := cells ++ r.out } p := by
  unfold tickProgress
  cases hprogress : r.progress with
  | checks => exact absurd hprogress hc
  | read j todo b =>
    refine .inr ?_
    dsimp only [nextAccess, tickRead]
    cases hk : chosen pick todo with
    | none =>
      cases eq_nil_of_chosen hk
      exact ⟨_, [], .toRounds, rfl⟩
    | some k => exact ⟨_, [], .readByte k (perm_chosen_unchosen hk), rfl⟩
  | rounds j n l h =>
    rw [hprogress] at hp
    obtain ⟨p, hmove, e⟩ := tickRounds_move (d := cipherDir i) (s := s) (r := r) (j := j) (l := l) (h := h) hp.2
    exact .inr ⟨p, [], hmove, e⟩
  | write j todo l h =>
    refine .inr ?_
    dsimp only [nextAccess, tickWrite]
    cases hk : chosen pick todo with
    | none =>
      cases eq_nil_of_chosen hk
      exact ⟨_, [], .nextBlock, rfl⟩
    | some k => exact ⟨_, [_], .writeByte k (perm_chosen_unchosen hk), rfl⟩
  | tail toRead toWrite =>
    dsimp only [nextAccess, tickTail]
    cases hx : tailChoice pick toRead toWrite with
    | none =>
      obtain ⟨hread, hwrite⟩ := List.append_eq_nil_iff.mp (eq_nil_of_chosen hx)
      rw [List.map_eq_nil_iff] at hread hwrite
      exact .inl ⟨by rw [hread, hwrite], rfl⟩
    | some x =>
      refine .inr ?_
      rcases List.mem_append.mp (tailChoice_mem hx) with hx | hx
      · obtain ⟨m, hm, rfl⟩ := List.mem_map.mp hx
        exact ⟨_, [], .readTail m (List.perm_cons_erase hm), rfl⟩
      · obtain ⟨c, hc, rfl⟩ := List.mem_map.mp hx
        exact ⟨_, [_], .writeTail c (List.perm_cons_erase hc), rfl⟩
  | _ =>
    rw [hprogress] at hp
    exact hp.elim

/-- Everything a micro-step of a running buffer command can do. -/
inductive BufferTick (i : Instr) (s : State) (r : Run) (pick : Nat) : Prop where
  /-- The checks refuse the command. -/
  | refused (code : ErrCode) (hc : bufferRefusal s.keyed r.ops = some code) (h : s.tick pick = s.complete code)
  /-- An access gets an error response. -/
  | failed (x : Access) (hx : OwnAccess r.ops x) (hbus : s.platform.busErr x = true)
      (hc : r.progress ≠ .checks) (h : s.tick pick = s.bufferFailed r.ops)
  /-- Nothing is left to copy, and the command completes. -/
  | done (hp : r.progress = .tail [] []) (h : s.tick pick = s.bufferDone r.ops r.raced (commit r.out s.mem))
  /-- The command goes on. -/
  | moved (p : Progress) (cells : List Host.Cell)
      (hmove : BufferMove (cipherDir i) s r.ops r.progress (nextAccess r.ops pick r.progress) p cells)
      (hbus : ∀ x, nextAccess r.ops pick r.progress = some x → s.platform.busErr x = false)
      (hc : r.progress = .checks → ChecksPass s.keyed r.ops)
      (h : s.tick pick = s.goTo { r with out := cells ++ r.out } p)

theorem tickChecks_buffer {i : Instr} (hi : i = .encBuf ∨ i = .decBuf) (r : Run) (s : State) :
    (∃ code, bufferRefusal s.keyed r.ops = some code ∧ tickChecks i r s = s.complete code) ∨
      (bufferRefusal s.keyed r.ops = none ∧ tickChecks i r s = s.goTo r (r.ops.atBlock 0)) := by
  have hchecks : tickChecks i r s =
      match bufferRefusal s.keyed r.ops with
      | some code => s.complete code
      | none => s.goTo r (r.ops.atBlock 0) := by
    rcases hi with rfl | rfl <;> rfl
  rw [hchecks]
  cases hc : bufferRefusal s.keyed r.ops with
  | some code => exact .inl ⟨code, rfl, rfl⟩
  | none => exact .inr ⟨rfl, rfl⟩

theorem tick_buffer {s : State} {r : Run} {i : Instr} (pick : Nat) (hq : s.seq = .busy r) (hd : decode r.word = .ok i)
    (hi : i = .encBuf ∨ i = .decBuf) (hp : InBuffer r.ops r.progress) : BufferTick i s r pick := by
  by_cases hchecks : r.progress = .checks
  · have htick : s.tick pick = tickChecks i r s := by
      rw [tick_of_access hq hd (by rw [hchecks]; rfl), tickProgress, hchecks]
    rcases tickChecks_buffer hi r s with ⟨code, hc, e⟩ | ⟨hc, e⟩
    · exact .refused code hc (htick.trans e)
    · refine .moved _ [] ?_ ?_ (fun _ => bufferRefusal_eq_none.mp hc) (htick.trans e)
      · rw [hchecks]
        exact .begin
      · rw [hchecks]
        exact nofun
  · cases hf : accessFails s.platform (nextAccess r.ops pick r.progress) with
    | true =>
      cases hx : nextAccess r.ops pick r.progress with
      | none =>
        rw [hx] at hf
        cases hf
      | some x =>
        refine .failed x (ownAccess_of_nextAccess hp hx) (by rwa [hx] at hf) hchecks ?_
        simp only [State.tick, hq, hd, hf, if_true]
    | false =>
      have htick := tick_of_access hq hd hf
      rcases tickProgress_buffer (i := i) (s := s) pick hp hchecks with ⟨hdone, e⟩ | ⟨p, cells, hmove, e⟩
      · exact .done hdone (htick.trans e)
      · exact .moved p cells hmove (fun x hx => by rwa [hx] at hf) (absurd · hchecks) (htick.trans e)

/-! ## A move keeps what the command holds right -/

theorem atBlock_of_lt {o : Operands} {j : Nat} (h : j < o.blocks) :
    o.atBlock j = .read j allEight (Vector.replicate 8 0#8) := if_pos h

theorem atBlock_of_le {o : Operands} {j : Nat} (h : o.blocks ≤ j) : o.atBlock j = .tail o.tailOffsets [] :=
  if_neg (Nat.not_lt.mpr h)

/-- The trailing bytes of a buffer that is not in place (43_buffer_transform R184). -/
theorem mem_tailOffsets {o : Operands} {off : Nat} :
    off ∈ o.tailOffsets ↔ o.src ≠ o.dst ∧ 8 * o.blocks ≤ off ∧ off < o.len.toNat := by
  unfold Operands.tailOffsets
  split
  · exact iff_of_false List.not_mem_nil fun h => h.1 ‹_›
  · rw [List.mem_range'_1, blocks_add_tail]
    exact (and_iff_right ‹_›).symm

theorem nodup_tailOffsets (o : Operands) : o.tailOffsets.Nodup := by
  unfold Operands.tailOffsets
  split
  · exact List.nodup_nil
  · exact List.nodup_range'

theorem inBuffer_atBlock (o : Operands) (j : Nat) : InBuffer o (o.atBlock j) := by
  rcases Nat.lt_or_ge j o.blocks with hj | hj
  · rw [atBlock_of_lt hj]
    exact hj
  · rw [atBlock_of_le hj]
    intro off ho
    rw [List.map_nil, List.append_nil, mem_tailOffsets] at ho
    exact ⟨ho.1, ho.2.2⟩

theorem BufferMove.inBuffer {d : Dir} {s : State} {o : Operands} {p p' : Progress} {x : Option Access}
    {cells : List Host.Cell} (h : BufferMove d s o p x p' cells) (hp : InBuffer o p) : InBuffer o p' := by
  cases h with
  | begin => exact inBuffer_atBlock o 0
  | readByte k hk => exact hp
  | toRounds => exact ⟨hp, Nat.zero_le _⟩
  | round hn => exact ⟨hp.1, hn⟩
  | toWrite => exact hp.1
  | writeByte k hk => exact hp
  | nextBlock => exact inBuffer_atBlock o _
  | readTail m hm =>
    intro off ho
    refine hp off ?_
    rw [(hm.append_right _).mem_iff]
    exact List.perm_middle.mem_iff.mp ho
  | writeTail c hc =>
    intro off ho
    refine hp off ?_
    rw [((hc.map Prod.fst).append_left _).mem_iff]
    exact List.perm_middle.mem_iff.mpr (List.mem_cons_of_mem _ ho)

theorem BufferOk.checksPass {T : Word × Word → Word × Word} {d : Dir} {s : State} {r : Run} (h : BufferOk T d s r)
    (hc : r.progress = .checks → ChecksPass s.keyed r.ops) : ChecksPass s.keyed r.ops := by
  by_cases hp : r.progress = .checks
  · exact hc hp
  · exact h.passed hp

/-- The working values of a run whose progress is known. -/
theorem BufferOk.workingAt {T : Word × Word → Word × Word} {d : Dir} {s : State} {r : Run} {q : Progress}
    (h : BufferOk T d s r) (hp : r.progress = q) : BufferWorking T d s { r with progress := q } := hp ▸ h.working

theorem BufferOk.inBuffer {T : Word × Word → Word × Word} {d : Dir} {s : State} {r : Run} (h : BufferOk T d s r) :
    InBuffer r.ops r.progress := by
  cases hp : r.progress with
  | checks => trivial
  | read j todo b => exact (h.workingAt hp).1
  | rounds j n l l' =>
    obtain ⟨hj, hn, -⟩ := h.workingAt hp
    exact ⟨hj, hn⟩
  | write j todo l l' => exact (h.workingAt hp).1
  | tail toRead toWrite =>
    obtain ⟨-, hoff, -⟩ := h.workingAt hp
    exact fun off ho => ⟨(hoff off ho).1, (hoff off ho).2.2⟩
  | sched n round l l' => exact h.workingAt hp
  | block round l l' => exact h.workingAt hp

section

variable {T : Word × Word → Word × Word} {d : Dir} {s : State} {r : Run} {p : Progress}

/-- New progress by which the same bytes are written. -/
theorem BufferOk.goTo (h : BufferOk T d s r) (hpass : ChecksPass s.keyed r.ops)
    (hw : BufferWorking T d s { r with progress := p })
    (hiff : ∀ off, off < r.ops.len.toNat → (written r.ops p off ↔ written r.ops r.progress off)) :
    BufferOk T d s { r with progress := p } where
  passed _ := hpass
  working := hw
  outWritten c hc := by
    obtain ⟨off, e, ho, hwritten⟩ := h.outWritten c hc
    exact ⟨off, e, ho, (hiff off ho).mpr hwritten⟩
  outOnce := h.outOnce
  outValue off ho hwritten := h.outValue off ho ((hiff off ho).mp hwritten)

/-- New progress by which the byte at offset `m` is written too, and it is. -/
theorem BufferOk.write (h : BufferOk T d s r) (hpass : ChecksPass s.keyed r.ops) {m : Nat} {b : Byte}
    (hw : BufferWorking T d s { r with progress := p, out := (r.ops.dst.toNat + m, b) :: r.out })
    (hm : m < r.ops.len.toNat) (hnew : ¬ written r.ops r.progress m)
    (hiff : ∀ off, written r.ops p off ↔ off = m ∨ written r.ops r.progress off)
    (hread : readClear s.platform r.ops m) (hwrite : s.platform.busErr ⟨.write, r.ops.dst.toNat + m⟩ = false)
    (hb : racedOffset r.ops r.raced m = false → b = resultByte T s.mem r.ops.src.toNat r.ops.blocks m) :
    BufferOk T d s { r with progress := p, out := (r.ops.dst.toNat + m, b) :: r.out } where
  passed _ := hpass
  working := hw
  outWritten c hc := by
    rcases List.mem_cons.mp hc with rfl | hc
    · exact ⟨m, rfl, hm, (hiff m).mpr (.inl rfl)⟩
    · obtain ⟨off, e, ho, hwritten⟩ := h.outWritten c hc
      exact ⟨off, e, ho, (hiff off).mpr (.inr hwritten)⟩
  outOnce := by
    refine List.nodup_cons.mpr ⟨fun hmem => ?_, h.outOnce⟩
    obtain ⟨c, hc, e⟩ := List.mem_map.mp hmem
    obtain ⟨off, e', -, hwritten⟩ := h.outWritten c hc
    obtain rfl : off = m := Nat.add_left_cancel (e'.symm.trans e)
    exact hnew hwritten
  outValue off ho hwritten := by
    by_cases hoff : off = m
    · subst hoff
      exact ⟨hread, hwrite, b, List.mem_cons_self, hb⟩
    · obtain ⟨hr, hwr, b', hmem, hb'⟩ := h.outValue off ho (((hiff off).mp hwritten).resolve_left hoff)
      exact ⟨hr, hwr, b', List.mem_cons_of_mem _ hmem, hb'⟩

/-- Where a buffer command goes for block `j`, the blocks before it are written and nothing else. -/
theorem written_atBlock {o : Operands} {j off : Nat} (hj : j ≤ o.blocks) (ho : off < o.len.toNat) :
    written o (o.atBlock j) off ↔ off < 8 * j := by
  rcases Nat.lt_or_ge j o.blocks with hlt | hge
  · rw [atBlock_of_lt hlt]
    exact Iff.rfl
  · obtain rfl : j = o.blocks := by omega
    rw [atBlock_of_le hge]
    refine or_iff_left_of_imp ?_
    rintro ⟨hne, -, hoff, -⟩
    exact not_le.mp fun h => hoff (mem_tailOffsets.mpr ⟨hne, h, ho⟩)

theorem mem_allEight (k : Fin 8) : k ∈ allEight := by
  revert k
  decide

theorem working_atBlock (T : Word × Word → Word × Word) (d : Dir) (s : State) (r : Run) (j : Nat) :
    BufferWorking T d s { r with progress := r.ops.atBlock j } := by
  rcases Nat.lt_or_ge j r.ops.blocks with hj | hj
  · rw [atBlock_of_lt hj]
    exact ⟨hj, by decide, fun k hk => absurd (mem_allEight k) hk⟩
  · rw [atBlock_of_le hj]
    have hnil : r.ops.tailOffsets ++ ([] : List (Nat × Byte)).map Prod.fst = r.ops.tailOffsets := List.append_nil _
    refine ⟨?_, fun off ho => ?_, nofun⟩
    · rw [hnil]
      exact nodup_tailOffsets r.ops
    · rw [hnil, mem_tailOffsets] at ho
      exact ho

/-- The eight bytes read are the source block's. -/
theorem sourceBlock_of_bytes {m : Memory} {src j : Nat} {b : Vector Byte 8}
    (h : ∀ k : Fin 8, b[k] = m.read (src + 8 * j + k.val)) : (blockLeft b, blockRight b) = sourceBlock m src j := by
  have byte (k : Nat) (hk : k < 8) : b[k] = m.read (src + 8 * j + k) := h ⟨k, hk⟩
  simp only [blockLeft, blockRight, sourceBlock, byte, Nat.add_zero]

/-- Races spoil a block as a whole. -/
theorem racedOffset_block {o : Operands} {j k : Nat} (hj : j < o.blocks) (hk : k < 8) (raced : List Nat) :
    racedOffset o raced (8 * j + k) = racedOffset o raced (8 * j) := by
  unfold racedOffset
  rw [if_pos (by omega), if_pos (by omega), show (8 * j + k) / 8 = j by omega, show 8 * j / 8 = j by omega]

/-- In a block that is being written, the bytes no longer to do are written. -/
theorem written_write {o : Operands} {j off : Nat} {todo todo' : List (Fin 8)} {l h : Word} {k : Fin 8}
    (hk : todo.Perm (k :: todo')) (hn : todo.Nodup) :
    written o (.write j todo' l h) off ↔ off = 8 * j + k.val ∨ written o (.write j todo l h) off := by
  obtain ⟨hnot, -⟩ := List.nodup_cons.mp (hk.nodup_iff.mp hn)
  have hk8 := k.isLt
  constructor
  · rintro (hoff | ⟨hoff, hdone⟩)
    · exact .inr (.inl hoff)
    · refine or_iff_not_imp_left.mpr fun hne => .inr ⟨hoff, fun k' hk' => ?_⟩
      rcases List.mem_cons.mp (hk.mem_iff.mp hk') with rfl | hk'
      · omega
      · exact hdone k' hk'
  · rintro (rfl | hoff | ⟨hoff, hdone⟩)
    · refine .inr ⟨by omega, fun k' hk' e => hnot ?_⟩
      rwa [← Fin.ext (show k'.val = k.val by omega)]
    · exact .inl hoff
    · exact .inr ⟨hoff, fun k' hk' => hdone k' (hk.mem_iff.mpr (List.mem_cons_of_mem _ hk'))⟩

theorem written_tail {o : Operands} {toRead : List Nat} {toWrite : List (Nat × Byte)} {off : Nat} :
    written o (.tail toRead toWrite) off ↔
      off < 8 * o.blocks ∨ (o.src ≠ o.dst ∧ off < o.len.toNat ∧ off ∉ toRead ++ toWrite.map Prod.fst) := by
  simp only [written, List.mem_append, not_or, List.mem_map, not_exists, not_and, ne_eq]

/-- A byte of the block is read. -/
theorem BufferOk.readByte (h : BufferOk T d s r) (hpass : ChecksPass s.keyed r.ops) {j : Nat} {todo todo' : List (Fin 8)}
    {b : Vector Byte 8} {k : Fin 8} (hp : r.progress = .read j todo b) (hk : todo.Perm (k :: todo'))
    (hbus : s.platform.busErr ⟨.read, r.ops.src.toNat + 8 * j + k.val⟩ = false) :
    BufferOk T d s { r with
      progress := .read j todo' (b.set k.val (s.mem.read (r.ops.src.toNat + 8 * j + k.val)) k.isLt) } := by
  obtain ⟨hj, hn, hread⟩ := h.workingAt hp
  refine h.goTo hpass ⟨hj, (List.nodup_cons.mp (hk.nodup_iff.mp hn)).2, fun k' hk' => ?_⟩ fun off _ => by rw [hp]; rfl
  by_cases hkk : k' = k
  · subst hkk
    rw [readClear, ← Nat.add_assoc]
    exact ⟨hbus, fun _ => Vector.getElem_set_self _⟩
  · obtain ⟨hclear, hbyte⟩ := hread k' (by rw [hk.mem_iff, List.mem_cons]; exact not_or.mpr ⟨hkk, hk'⟩)
    exact ⟨hclear, fun hr => (Vector.getElem_set_ne _ _ fun e => hkk (Fin.ext e.symm)).trans (hbyte hr)⟩

/-- A byte of the block is written. -/
theorem BufferOk.writeByte (h : BufferOk T d s r) (hpass : ChecksPass s.keyed r.ops) {j : Nat} {todo todo' : List (Fin 8)}
    {l l' : Word} {k : Fin 8} (hp : r.progress = .write j todo l l') (hk : todo.Perm (k :: todo'))
    (hbus : s.platform.busErr ⟨.write, r.ops.dst.toNat + 8 * j + k.val⟩ = false) :
    BufferOk T d s { r with
      progress := .write j todo' l l'
      out := (r.ops.dst.toNat + 8 * j + k.val, blockByte (l, l') k.val) :: r.out } := by
  have hlen := blocks_add_tail r.ops
  have hk8 := k.isLt
  obtain ⟨(hj : j < r.ops.blocks), hn, hread, hhalves⟩ := h.workingAt hp
  rw [Nat.add_assoc] at hbus ⊢
  refine h.write hpass ⟨hj, (List.nodup_cons.mp (hk.nodup_iff.mp hn)).2, hread, hhalves⟩ (by omega) ?_ ?_ (hread k hk8) hbus
    fun hr => ?_
  · rw [hp]
    rintro (hoff | ⟨-, hoff⟩)
    · omega
    · exact hoff k (hk.mem_iff.mpr List.mem_cons_self) (by omega)
  · intro off
    rw [hp]
    exact written_write hk hn
  · rw [racedOffset_block hj hk8] at hr
    rw [resultByte_of_block _ _ _ hj hk8, hhalves hr]

/-- A trailing byte is read. -/
theorem BufferOk.readTail (h : BufferOk T d s r) (hpass : ChecksPass s.keyed r.ops) {toRead toRead' : List Nat}
    {toWrite : List (Nat × Byte)} {m : Nat} (hp : r.progress = .tail toRead toWrite) (hm : toRead.Perm (m :: toRead'))
    (hbus : s.platform.busErr ⟨.read, r.ops.src.toNat + m⟩ = false) :
    BufferOk T d s { r with progress := .tail toRead' ((m, s.mem.read (r.ops.src.toNat + m)) :: toWrite) } := by
  obtain ⟨hn, hoff, hvalue⟩ := h.workingAt hp
  have hperm : (toRead ++ toWrite.map Prod.fst).Perm (toRead' ++ m :: toWrite.map Prod.fst) :=
    (hm.append_right _).trans List.perm_middle.symm
  refine h.goTo hpass ⟨hperm.nodup_iff.mp hn, fun off ho => hoff off (hperm.mem_iff.mpr ho),
    List.forall_mem_cons.mpr ⟨⟨hbus, fun _ => rfl⟩, hvalue⟩⟩ fun off _ => ?_
  rw [hp, written_tail, written_tail, hperm.mem_iff, List.map_cons]

/-- A trailing byte is written. -/
theorem BufferOk.writeTail (h : BufferOk T d s r) (hpass : ChecksPass s.keyed r.ops) {toRead : List Nat}
    {toWrite toWrite' : List (Nat × Byte)} {c : Nat × Byte} (hp : r.progress = .tail toRead toWrite)
    (hc : toWrite.Perm (c :: toWrite')) (hbus : s.platform.busErr ⟨.write, r.ops.dst.toNat + c.1⟩ = false) :
    BufferOk T d s { r with progress := .tail toRead toWrite', out := (r.ops.dst.toNat + c.1, c.2) :: r.out } := by
  obtain ⟨hn, hoff, hvalue⟩ := h.workingAt hp
  have hperm : (toRead ++ toWrite.map Prod.fst).Perm (c.1 :: (toRead ++ toWrite'.map Prod.fst)) :=
    ((hc.map Prod.fst).append_left _).trans List.perm_middle
  obtain ⟨hnot, hn'⟩ := List.nodup_cons.mp (hperm.nodup_iff.mp hn)
  obtain ⟨hcin, hvalue'⟩ := List.forall_mem_cons.mp fun c' hc' => hvalue c' (hc.mem_iff.mpr hc')
  obtain ⟨hne, (hge : 8 * r.ops.blocks ≤ c.1), hlt⟩ := hoff c.1 (hperm.mem_iff.mpr List.mem_cons_self)
  refine h.write hpass ⟨hn', fun off ho => hoff off (hperm.mem_iff.mpr (List.mem_cons_of_mem _ ho)), hvalue'⟩ hlt ?_ ?_
    hcin.1 hbus fun hr => ?_
  · rw [hp, written_tail, hperm.mem_iff]
    rintro (hlow | ⟨-, -, hnotin⟩)
    · omega
    · exact hnotin List.mem_cons_self
  · intro off
    rw [hp, written_tail, written_tail, hperm.mem_iff, List.mem_cons, not_or]
    by_cases hc1 : off = c.1
    · subst hc1
      exact iff_of_true (.inr ⟨hne, hlt, hnot⟩) (.inl rfl)
    · simp only [hc1, not_false_eq_true, true_and, false_or]
  · rw [resultByte_of_tail _ _ _ hge]
    exact hcin.2 hr

/-- A move that meets no bus error keeps what the command holds right. -/
theorem BufferOk.move {x : Option Access} {cells : List Host.Cell} (h : BufferOk (blockTransform d s.cipher) d s r)
    (hpass : ChecksPass s.keyed r.ops) (hm : BufferMove d s r.ops r.progress x p cells)
    (hbus : ∀ y, x = some y → s.platform.busErr y = false) :
    BufferOk (blockTransform d s.cipher) d s { r with progress := p, out := cells ++ r.out } := by
  generalize hp : r.progress = q at hm
  have hw := h.workingAt hp
  cases hm with
  | begin =>
    refine h.goTo hpass (working_atBlock _ _ _ _ _) fun off ho => ?_
    rw [written_atBlock (Nat.zero_le _) ho, hp]
    exact iff_of_false (Nat.not_lt_zero _) id
  | readByte k hk => exact h.readByte hpass hp hk (hbus _ rfl)
  | toRounds =>
    obtain ⟨hj, -, hread⟩ := hw
    refine h.goTo hpass ⟨hj, Nat.zero_le _, fun k hk => (hread ⟨k, hk⟩ List.not_mem_nil).1, fun hr => ?_⟩
      fun off _ => by rw [hp]; rfl
    exact sourceBlock_of_bytes fun k => (hread k List.not_mem_nil).2 hr
  | round hround =>
    obtain ⟨hj, -, hread, hhalves⟩ := hw
    exact h.goTo hpass ⟨hj, hround, hread, fun hr => roundStep_eq_loop (hhalves hr)⟩ fun off _ => by rw [hp]; rfl
  | toWrite =>
    obtain ⟨hj, -, hread, hhalves⟩ := hw
    refine h.goTo hpass ⟨hj, by decide, hread, fun hr => ?_⟩ fun off _ => ?_
    · exact congrArg (whiten d s.cipher) (roundStep_eq_loop (hhalves hr))
    · rw [hp]
      exact or_iff_left fun ⟨_, hdone⟩ => hdone ⟨off % 8, Nat.mod_lt _ (by omega)⟩ (mem_allEight _) rfl
  | writeByte k hk => exact h.writeByte hpass hp hk (hbus _ rfl)
  | nextBlock =>
    obtain ⟨hj, -⟩ := hw
    refine h.goTo hpass (working_atBlock _ _ _ _ _) fun off ho => ?_
    rw [written_atBlock hj ho, hp]
    simp only [written, List.not_mem_nil, false_implies, implies_true, and_true]
    omega
  | readTail m hm => exact h.readTail hpass hp hm (hbus _ rfl)
  | writeTail c hc => exact h.writeTail hpass hp hc (hbus _ rfl)

end

/-! ## Races keep it right -/

theorem racedOffset_append (o : Operands) (l raced : List Nat) (off : Nat) :
    racedOffset o (l ++ raced) off = (racedOffset o l off || racedOffset o raced off) := by
  unfold racedOffset
  split
  · exact List.any_append
  · rw [List.any_append, Bool.and_or_distrib_left]

/-- A race on a source byte of a block spoils the block. -/
theorem racedOffset_of_mem_block {o : Operands} {raced : List Nat} {j k : Nat} (hj : j < o.blocks) (hk : k < 8)
    (h : o.src.toNat + 8 * j + k ∈ raced) : racedOffset o raced (8 * j) = true := by
  rw [racedOffset, if_pos (by omega), List.any_eq_true]
  refine ⟨_, h, ?_⟩
  simp only [inRange, Bool.or_eq_true, Bool.and_eq_true, decide_eq_true_eq]
  omega

/-- A race on the source of a copied trailing byte spoils the byte. -/
theorem racedOffset_of_mem_tail {o : Operands} {raced : List Nat} {off : Nat} (hne : o.src ≠ o.dst)
    (ho : 8 * o.blocks ≤ off) (h : o.src.toNat + off ∈ raced) : racedOffset o raced off = true := by
  rw [racedOffset, if_neg (by omega), Bool.and_eq_true, List.any_eq_true]
  exact ⟨bne_iff_ne.mpr hne, _, h, by simp⟩

/-- Memory `m'` differs from `m` in the source only at the addresses of `l`. -/
def SourceKept (o : Operands) (l : List Nat) (m m' : Memory) : Prop :=
  ∀ a, o.inSource a = true → m'.read a ≠ m.read a → a ∈ l

section

variable {o : Operands} {l : List Nat} {m m' : Memory}

theorem SourceKept.read_block (h : SourceKept o l m m') {j k : Nat} (hj : j < o.blocks) (hk : k < 8)
    (hr : racedOffset o l (8 * j) = false) : m'.read (o.src.toNat + 8 * j + k) = m.read (o.src.toNat + 8 * j + k) := by
  have hlen := blocks_add_tail o
  by_contra hne
  have hin : o.inSource (o.src.toNat + 8 * j + k) = true := by
    simp only [Operands.inSource, inRange, Bool.and_eq_true, decide_eq_true_eq]
    omega
  cases (racedOffset_of_mem_block hj hk (h _ hin hne)).symm.trans hr

theorem SourceKept.sourceBlock (h : SourceKept o l m m') {j : Nat} (hj : j < o.blocks)
    (hr : racedOffset o l (8 * j) = false) : sourceBlock m' o.src.toNat j = sourceBlock m o.src.toNat j :=
  sourceBlock_congr fun _ hk => h.read_block hj hk hr

theorem SourceKept.read_tail (h : SourceKept o l m m') {off : Nat} (hne : o.src ≠ o.dst) (ho : 8 * o.blocks ≤ off)
    (hlt : off < o.len.toNat) (hr : racedOffset o l off = false) :
    m'.read (o.src.toNat + off) = m.read (o.src.toNat + off) := by
  by_contra hread
  have hin : o.inSource (o.src.toNat + off) = true := by
    simp only [Operands.inSource, inRange, Bool.and_eq_true, decide_eq_true_eq]
    omega
  cases (racedOffset_of_mem_tail hne ho (h _ hin hread)).symm.trans hr

theorem SourceKept.resultByte (h : SourceKept o l m m') {off : Nat} (hoff : off < 8 * o.blocks ∨ o.src ≠ o.dst)
    (hlt : off < o.len.toNat) (hr : racedOffset o l off = false) (T : Word × Word → Word × Word) :
    resultByte T m' o.src.toNat o.blocks off = resultByte T m o.src.toNat o.blocks off := by
  rcases offset_cases o.blocks off with ⟨j, k, hj, hk, rfl⟩ | hb
  · rw [racedOffset_block hj hk] at hr
    rw [resultByte_of_block _ _ _ hj hk, resultByte_of_block _ _ _ hj hk, h.sourceBlock hj hr]
  · rw [resultByte_of_tail _ _ _ hb, resultByte_of_tail _ _ _ hb]
    exact h.read_tail (hoff.resolve_left (by omega)) hb hlt hr

end

/-- A written byte lies in a whole block, or is a copied trailing byte. -/
theorem block_or_copied_of_written {o : Operands} {p : Progress} (hp : InBuffer o p) {off : Nat} (h : written o p off) :
    off < 8 * o.blocks ∨ o.src ≠ o.dst := by
  cases p with
  | read j todo b =>
    simp only [written, InBuffer] at h hp
    omega
  | rounds j n l r =>
    simp only [written, InBuffer] at h hp
    omega
  | write j todo l r =>
    simp only [written, InBuffer] at h hp
    omega
  | tail toRead toWrite => exact h.imp_right And.left
  | _ => exact h.elim

section

variable {T : Word × Word → Word × Word} {d : Dir} {s t : State} {r : Run} {l : List Nat}

theorem BufferWorking.raced (h : BufferWorking T d s r) (hp : t.platform = s.platform) (hc : t.cipher = s.cipher)
    (hm : SourceKept r.ops l s.mem t.mem) : BufferWorking T d t { r with raced := l ++ r.raced } := by
  unfold BufferWorking at *
  dsimp only
  simp only [racedOffset_append, Bool.or_eq_false_iff, hp, hc]
  cases hprogress : r.progress <;> rw [hprogress] at h <;> dsimp only at h ⊢
  case read j todo b =>
    obtain ⟨hj, hn, hread⟩ := h
    exact ⟨hj, hn, fun k hk => ⟨(hread k hk).1, fun hr => ((hread k hk).2 hr.2).trans (hm.read_block hj k.isLt hr.1).symm⟩⟩
  case rounds j n l' h' =>
    obtain ⟨hj, hn, hread, hhalves⟩ := h
    exact ⟨hj, hn, hread, fun hr => by rw [hm.sourceBlock hj hr.1]; exact hhalves hr.2⟩
  case write j todo l' h' =>
    obtain ⟨hj, hn, hread, hhalves⟩ := h
    exact ⟨hj, hn, hread, fun hr => by rw [hm.sourceBlock hj hr.1]; exact hhalves hr.2⟩
  case tail toRead toWrite =>
    obtain ⟨hn, hoff, hvalue⟩ := h
    refine ⟨hn, hoff, fun c hc => ⟨(hvalue c hc).1, fun hr => ((hvalue c hc).2 hr.2).trans ?_⟩⟩
    obtain ⟨hne, hge, hlt⟩ := hoff c.1 (List.mem_append_right _ (List.mem_map_of_mem hc))
    exact (hm.read_tail hne hge hlt hr.1).symm

/-- Races that are noted keep what a buffer command holds right. -/
theorem BufferOk.raced (h : BufferOk T d s r) (hk : t.keyed = s.keyed) (hp : t.platform = s.platform)
    (hc : t.cipher = s.cipher) (hm : SourceKept r.ops l s.mem t.mem) : BufferOk T d t { r with raced := l ++ r.raced } where
  passed hne := hk ▸ h.passed hne
  working := h.working.raced hp hc hm
  outWritten := h.outWritten
  outOnce := h.outOnce
  outValue off ho hwritten := by
    obtain ⟨hread, hwrite, b, hmem, hb⟩ := h.outValue off ho hwritten
    rw [hp]
    refine ⟨hread, hwrite, b, hmem, fun hr => ?_⟩
    rw [racedOffset_append, Bool.or_eq_false_iff] at hr
    rw [hm.resultByte (block_or_copied_of_written h.inBuffer hwritten) ho hr.1]
    exact hb hr.2

end

/-! ## Every step keeps it right -/

/-- The invariant with ENC_BUF and DEC_BUF under one head. -/
theorem bufferInv_iff {s : State} :
    BufferInv s ↔ Memory.wf s.mem ∧ ∀ r i, s.seq = .busy r → decode r.word = .ok i → i = .encBuf ∨ i = .decBuf →
      BufferOk (blockTransform (cipherDir i) s.cipher) (cipherDir i) s r := by
  refine and_congr_right fun _ => ⟨fun h r i hq hd hi => ?_, fun h r hq => ⟨fun hd => ?_, fun hd => ?_⟩⟩
  · rcases hi with rfl | rfl
    · exact (h r hq).1 hd
    · exact (h r hq).2 hd
  · exact h r .encBuf hq hd (.inl rfl)
  · exact h r .decBuf hq hd (.inr rfl)

theorem bufferInv_of_idle {s : State} (hw : Memory.wf s.mem) (hq : s.seq = .idle) : BufferInv s :=
  ⟨hw, fun r hr => by cases hq.symm.trans hr⟩

/-- A command that has just been accepted holds nothing. -/
theorem bufferInv_of_accepted {s : State} {w : Word} {o : Operands} (hw : Memory.wf s.mem)
    (hq : s.seq = .busy ⟨w, o, .checks, [], []⟩) : BufferInv s := by
  refine bufferInv_iff.mpr ⟨hw, fun r i hr _ _ => ?_⟩
  cases hq.symm.trans hr
  exact ⟨absurd rfl, trivial, nofun, List.nodup_nil, fun _ _ h => h.elim⟩

/-- What changes memory beside the engine is noted, and keeps the invariant. -/
theorem BufferInv.noted {s t : State} (h : BufferInv s) (hw : Memory.wf t.mem) (hk : t.keyed = s.keyed)
    (hp : t.platform = s.platform) (hc : t.cipher = s.cipher)
    (hq : Noted (fun x => t.mem.read x ≠ s.mem.read x) s.seq t.seq) : BufferInv t := by
  cases hs : s.seq with
  | idle => exact bufferInv_of_idle hw (hq.1 hs)
  | busy r =>
    obtain ⟨l, ht, hl⟩ := hq.2 r hs
    refine bufferInv_iff.mpr ⟨hw, fun r' i hr hd hi => ?_⟩
    cases ht.symm.trans hr
    have hbuffer : isBuffer r.word = true := by
      rw [isBuffer_iff, hd]
      exact hi.imp (congrArg _) (congrArg _)
    rw [hc]
    exact ((bufferInv_iff.mp h).2 r i hs hd hi).raced hk hp hc fun a ha hne => hl hbuffer a hne (.inl ha)

theorem BufferInv.unchanged {s t : State} (h : BufferInv s) (hm : t.mem = s.mem) (hk : t.keyed = s.keyed)
    (hp : t.platform = s.platform) (hc : t.cipher = s.cipher) (hq : t.seq = s.seq) : BufferInv t :=
  h.noted (hm ▸ h.1) hk hp hc (hq ▸ Noted.refl (fun x hx => hx (by rw [hm])) _)

theorem BufferInv.arrive {s : State} (h : BufferInv s) (a : Nat) (b : Byte) : BufferInv (s.arrive a b) := by
  obtain ⟨m, n, q, e, hm⟩ := arrive_cases s a b
  obtain ⟨hw, -, hq⟩ := hm h.1
  rw [e]
  exact h.noted hw rfl rfl rfl (hq.mono fun x hx => .inr hx)

theorem BufferInv.keep {s : State} (h : BufferInv s) (a : Nat) (b : Byte) : BufferInv (s.keep a b) := by
  obtain ⟨m, n, q, e, hm⟩ := keep_cases s a b
  obtain ⟨hw, -, hq⟩ := hm h.1
  rw [e]
  exact h.noted hw rfl rfl rfl (hq.mono fun x hx => .inr hx)

theorem BufferInv.hostStore {s : State} (h : BufferInv s) (a : Word) (b : Byte) : BufferInv (s.hostStore a b) := by
  rcases hostStore_cases s a b with ⟨-, e⟩ | ⟨-, e⟩ <;> rw [e]
  · exact (h.arrive a.toNat b).unchanged rfl rfl rfl rfl rfl
  · exact (h.keep a.toNat b).unchanged rfl rfl rfl rfl rfl

/-- A register's write leaves what a running command stands on. -/
theorem writeReg_of_busy {s : State} (hb : s.busy = true) (r : Reg) (v : Word) :
    ∃ ie done ovr, s.writeReg r v = { s with ie := ie, done := done, ovr := ovr } := by
  have blocked (taken : State) : s.unlessBusy taken = { s with ovr := true } := if_pos hb
  cases r with
  | id => exact ⟨_, _, _, rfl⟩
  | ctrl => exact ⟨_, _, _, rfl⟩
  | status => exact ⟨_, _, _, rfl⟩
  | _ => exact ⟨_, _, _, blocked _⟩

theorem BufferInv.writeReg {s : State} (h : BufferInv s) (r : Reg) (v : Word) : BufferInv (s.writeReg r v) := by
  cases hb : s.busy with
  | true =>
    obtain ⟨ie, done, ovr, e⟩ := writeReg_of_busy hb r v
    rw [e]
    exact h.unchanged rfl rfl rfl rfl rfl
  | false =>
    obtain ⟨hm, hq | hq⟩ := writeReg_sequencer s r v
    · exact bufferInv_of_idle (hm ▸ h.1) (hq.trans (State.busy_eq_false.mp hb))
    · exact bufferInv_of_accepted (hm ▸ h.1) hq

theorem exec_wf {i : Instr} {s t : State} (hw : Memory.wf s.mem) (h : exec i s = .next t) : Memory.wf t.mem := by
  rcases exec_cases i s with ⟨-, e⟩ | ⟨-, -, e⟩ | ⟨-, code, e⟩ | ⟨-, -, lr, e⟩ | ⟨hi, -⟩
  · cases e.symm.trans h
    exact hw
  · cases e.symm.trans h
    exact hw
  · cases e.symm.trans h
    exact hw
  · cases e.symm.trans h
    exact hw
  · cases (exec_buffer hi s).symm.trans h
    rcases bufferCommand_cases hw (blockTransform (cipherDir i) s.cipher) with ⟨code, -, e⟩ | e | ⟨m, e, hm, -⟩ <;> rw [e]
    · exact hw
    · exact bufferFailed_wf hw s.operands
    · exact bufferDone_wf hm s _ _

theorem bufferInv_of_exec {i : Instr} {s t : State} (hw : Memory.wf s.mem) (h : exec i s = .next t) : BufferInv t := by
  refine bufferInv_of_idle (exec_wf hw h) ?_
  rcases exec_ends h with ⟨-, rfl⟩ | ⟨-, rfl⟩ | ⟨-, hended⟩
  · rfl
  · rfl
  · exact hended.idle

theorem BufferInv.tick {s : State} {r : Run} (h : BufferInv s) (hq : s.seq = .busy r) (pick : Nat) :
    BufferInv (s.tick pick) := by
  have hw := h.1
  rcases tick_cases pick hq with ⟨p, out, c, e, -⟩ | ⟨_, -, e⟩ | ⟨-, -, e⟩ | ⟨-, _, e⟩ | ⟨-, -, _, e⟩ | ⟨-, _, e⟩ | ⟨-, e⟩ |
    ⟨-, e⟩
  · refine bufferInv_iff.mpr ⟨e ▸ hw, fun r' i hr hd hi => ?_⟩
    have hword : r'.word = r.word := by
      rw [e] at hr
      cases hr
      rfl
    rw [hword] at hd
    have hok := (bufferInv_iff.mp h).2 r i hq hd hi
    cases tick_buffer pick hq hd hi hok.inBuffer with
    | refused code _ e' => rw [e'] at hr; cases hr
    | failed x _ _ _ e' => rw [e'] at hr; cases hr
    | done _ e' => rw [e', State.bufferDone_seq] at hr; cases hr
    | moved p cells hmove hbus hc e' =>
      rw [e'] at hr ⊢
      cases hr
      exact (hok.move (hok.checksPass hc) hmove hbus).raced (l := []) rfl rfl rfl fun _ _ hne => absurd rfl hne
  · exact e ▸ bufferInv_of_idle hw rfl
  · exact e ▸ bufferInv_of_idle hw rfl
  · exact e ▸ bufferInv_of_idle hw rfl
  · exact e ▸ bufferInv_of_idle hw rfl
  · exact e ▸ bufferInv_of_idle hw rfl
  · exact e ▸ bufferInv_of_idle (bufferFailed_wf hw r.ops) rfl
  · exact e ▸ bufferInv_of_idle (bufferDone_wf (commit_wf hw r.out) s r.ops r.raced) (State.bufferDone_seq ..)

/-! ## Running on from here gives the same outcome -/

theorem racedOffset_nil (o : Operands) (off : Nat) : racedOffset o [] off = false := by
  unfold racedOffset
  split
  · rfl
  · exact Bool.and_false _

/-- A completion with OK depends on the command's memory only where no race spoils it. -/
theorem bufferDone_congr {s : State} {o : Operands} {raced : List Nat} {m m' : Memory} (hw : Memory.wf m)
    (hw' : Memory.wf m') (hspace : o.len.toNat = 0 ∨ o.dst.toNat + o.len.toNat ≤ 2 ^ 32)
    (h : ∀ a, o.inDest a = true ∧ racedOffset o raced (a - o.dst.toNat) = true ∨ m.read a = m'.read a) :
    s.bufferDone o raced m = s.bufferDone o raced m' := by
  rcases raced with _ | ⟨x, raced⟩
  · have hsame : m = m' := Memory.ext_of_read hw hw' fun a => (h a).resolve_left fun hr => by
      rw [racedOffset_nil] at hr
      cases hr.2
    rw [hsame]
  · have hdraw : drawRange o.dst.toNat o.len.toNat (racedOffset o (x :: raced)) s.draws m =
        drawRange o.dst.toNat o.len.toNat (racedOffset o (x :: raced)) s.draws m' := by
      refine Memory.ext_of_read (drawRange_wf hw _ _ _ _) (drawRange_wf hw' _ _ _ _) fun a => ?_
      rw [read_drawRange hw, read_drawRange hw']
      rcases h a with ⟨hin, hr⟩ | hread
      · rw [inDest_eq_true] at hin
        have ha : a < Config.addressSpace := by
          dsimp only [Config.addressSpace]
          omega
        rw [if_pos ⟨hin.1, hin.2, hr, ha⟩, if_pos ⟨hin.1, hin.2, hr, ha⟩]
      · rw [hread]
    simp only [State.bufferDone, State.settleRaces, State.drawDest, List.isEmpty_cons, Bool.false_eq_true, if_false, hdraw]

section

variable {T : Word × Word → Word × Word} {d : Dir} {s : State} {r : Run} (h : BufferOk T d s r)
  (hp : r.progress = .tail [] [])
include h hp

/-- A buffer command with nothing left to copy has written every byte that it writes. -/
theorem BufferOk.outValue_of_done {off : Nat} (hoff : off < r.ops.len.toNat)
    (hwritten : off < 8 * r.ops.blocks ∨ r.ops.src ≠ r.ops.dst) :
    readClear s.platform r.ops off ∧ s.platform.busErr ⟨.write, r.ops.dst.toNat + off⟩ = false ∧
      ∃ b, (r.ops.dst.toNat + off, b) ∈ r.out ∧
        (racedOffset r.ops r.raced off = false → b = resultByte T s.mem r.ops.src.toNat r.ops.blocks off) := by
  refine h.outValue off hoff ?_
  rw [hp, written_tail]
  exact hwritten.imp_right fun hne => ⟨hne, hoff, List.not_mem_nil⟩

/-- It met no bus error. -/
theorem BufferOk.busClear_of_done : BusClear s.platform r.ops := by
  have hlen := blocks_add_tail r.ops
  intro off ho
  have hoff : off < r.ops.len.toNat ∧ (off < 8 * r.ops.blocks ∨ r.ops.src ≠ r.ops.dst) := by
    unfold accessedBytes at ho
    split at ho
    · exact ⟨by omega, .inl ho⟩
    · exact ⟨ho, .inr ‹_›⟩
  obtain ⟨hread, hwrite, -⟩ := h.outValue_of_done hp hoff.1 hoff.2
  exact ⟨hread, hwrite⟩

/-- Its written bytes make up the result, but for what races spoil. -/
theorem BufferOk.read_commit_of_done {m : Memory} (hw : Memory.wf s.mem) (hm : HasResult T r.ops s.mem m) (a : Nat) :
    r.ops.inDest a = true ∧ racedOffset r.ops r.raced (a - r.ops.dst.toNat) = true ∨
      (commit r.out s.mem).read a = m.read a := by
  have outside (hout : ∀ off, off < r.ops.len.toNat → written r.ops r.progress off → r.ops.dst.toNat + off ≠ a) :
      (commit r.out s.mem).read a = s.mem.read a := by
    refine read_commit_of_not_mem hw fun c hc => ?_
    obtain ⟨off, e, ho, hwritten⟩ := h.outWritten c hc
    rw [e]
    exact hout off ho hwritten
  cases hin : r.ops.inDest a with
  | false =>
    rw [inDest_eq_false] at hin
    refine .inr ((outside fun off ho _ => by omega).trans (hm.frame a (inDest_eq_false.mpr hin)).symm)
  | true =>
    rw [inDest_eq_true] at hin
    obtain ⟨off, rfl⟩ : ∃ off, a = r.ops.dst.toNat + off := ⟨a - r.ops.dst.toNat, by omega⟩
    have hoff : off < r.ops.len.toNat := by omega
    rw [Nat.add_sub_cancel_left, hm.dest off hoff]
    by_cases hwritten : off < 8 * r.ops.blocks ∨ r.ops.src ≠ r.ops.dst
    · obtain ⟨-, -, b, hmem, hb⟩ := h.outValue_of_done hp hoff hwritten
      rw [read_commit_of_mem hw h.outOnce hmem]
      cases hr : racedOffset r.ops r.raced off with
      | true => exact .inl ⟨rfl, rfl⟩
      | false => exact .inr (hb hr)
    · -- a trailing byte in place stays where it is
      obtain ⟨hge, heq⟩ := not_or.mp hwritten
      rw [resultByte_of_tail _ _ _ (by omega), not_not.mp heq]
      refine .inr (outside fun off' _ hwritten' e => hwritten ?_)
      obtain rfl : off' = off := Nat.add_left_cancel e
      exact block_or_copied_of_written h.inBuffer hwritten'

end

/-- The meaning of a buffer command with nothing left to copy is its completion with the bytes it has written. -/
theorem BufferOk.exec_of_done {i : Instr} {s : State} {r : Run}
    (h : BufferOk (blockTransform (cipherDir i) s.cipher) (cipherDir i) s r) (hw : Memory.wf s.mem) (hq : s.seq = .busy r)
    (hi : i = .encBuf ∨ i = .decBuf) (hp : r.progress = .tail [] []) :
    exec i s = .next (s.bufferDone r.ops r.raced (commit r.out s.mem)) := by
  have ho := State.operands_busy hq
  have hchecks := h.passed (by rw [hp]; exact nofun)
  obtain ⟨m, hcommand, hm, hresult⟩ := bufferCommand_completes hw (ho ▸ hchecks) (ho ▸ h.busClear_of_done hp)
    (blockTransform (cipherDir i) s.cipher)
  rw [ho] at hcommand hresult
  have hsame := bufferDone_congr (s := s) hm (commit_wf hw r.out) (hchecks.2.imp_right fun ⟨_, hspace, _⟩ => hspace)
    fun a => (h.read_commit_of_done hp hw hresult a).imp_right Eq.symm
  rw [exec_buffer hi, hcommand, State.raced_busy hq, hsame]

end Sys2Proof.Safety

open Sys2Proof Sys2Proof.Machine Sys2Proof.Safety

/-- Settles O51: by each thing a step can do. -/
theorem stepKeepsBufferProgress : Obligations.StepKeepsBufferProgress := by
  intro s t hs hstep
  obtain ⟨rest, hc⟩ := stepCase_of_step hstep
  have h : BufferInv { s with inputs := rest } := hs.unchanged rfl rfl rfl rfl rfl
  cases hc with
  | answered x e => exact e ▸ h.unchanged rfl rfl rfl rfl rfl
  | observed x _ e => exact e ▸ h.unchanged rfl rfl rfl rfl rfl
  | nothing e => exact e ▸ h
  | register r v _ _ e => exact e ▸ (h.writeReg r v).unchanged rfl rfl rfl rfl rfl
  | store a b _ _ e => exact e ▸ h.hostStore a b
  | copies c _ _ e => exact e ▸ h.unchanged rfl rfl rfl rfl rfl
  | clean a b _ _ _ _ e => exact e ▸ h.arrive a.toNat b
  | reset _ _ e => exact e ▸ bufferInv_of_idle (resetInput_wf h.1) rfl
  | tick r pick hq e => exact e ▸ h.tick hq pick
  | run r i _ _ e => exact bufferInv_of_exec h.1 e
  | illegal r _ _ _ e => exact e ▸ bufferInv_of_idle h.1 rfl

/-- Settles O50: the meaning agrees with each way a micro-step of a buffer command can go. -/
theorem bufferMicroStepsRefine : Obligations.BufferMicroStepsRefine := by
  intro s r i pick hinv hq hd hi
  have hok := (bufferInv_iff.mp hinv).2 r i hq hd hi
  have ho := State.operands_busy hq
  cases tick_buffer pick hq hd hi hok.inBuffer with
  | refused code hc e =>
    rw [e]
    exact exec_buffer_of_refusal hi (ho ▸ hc)
  | failed x hx hbus hc e =>
    have hnot : ¬ BusClear s.platform r.ops := fun hclear => by cases hbus.symm.trans (hx.clear hclear)
    rw [e, ← ho]
    exact exec_buffer_failed hi hinv.1 (ho ▸ hok.passed hc) (ho ▸ hnot)
  | done hp e =>
    rw [e]
    exact hok.exec_of_done hinv.1 hq hi hp
  | moved p cells _ _ _ e =>
    rw [e]
    exact exec_goTo hq p _ i

end

section
/-! The accesses a buffer command makes, in order (43_buffer_transform R188): settles O53. -/

namespace Sys2Proof.Safety

open Sys2Proof.Machine

/-! ## Each move brings the completion nearer -/

theorem ticksLeft_busy {s : State} {r : Run} (hq : s.seq = .busy r) : 0 < ticksLeft s := by
  unfold ticksLeft
  rw [hq]
  dsimp only
  split <;> omega

/-- The micro-steps from block `j` on are fewer than those `blockTicks` and `tailTicks` allow. -/
theorem ticksLeft_atBlock (s : State) (r : Run) (j : Nat) :
    ticksLeft (s.goTo r (r.ops.atBlock j)) ≤ blockTicks r.ops j + tailTicks r.ops := by
  rcases Nat.lt_or_ge j r.ops.blocks with hj | hj
  · rw [atBlock_of_lt hj]
    show blockTicks r.ops (j + 1) + tailTicks r.ops + 28 + 8 ≤ _
    unfold blockTicks
    omega
  · have hlen : r.ops.tailOffsets.length ≤ r.ops.len.toNat % 8 := by
      unfold Operands.tailOffsets
      split <;> simp
    rw [atBlock_of_le hj]
    show 1 + 2 * r.ops.tailOffsets.length + 0 ≤ _
    unfold tailTicks
    omega

theorem BufferMove.ticksLeft_lt {d : Dir} {s : State} {r : Run} {p : Progress} {x : Option Access} {cells : List Host.Cell}
    (h : BufferMove d s r.ops r.progress x p cells) (hq : s.seq = .busy r) (out : List Host.Cell) :
    ticksLeft (s.goTo { r with out := out } p) < ticksLeft s := by
  have hs : ticksLeft s = ticksLeft (s.goTo r r.progress) := by
    simp only [ticksLeft, hq, State.goTo]
  rw [hs]
  generalize r.progress = q at h
  cases h with
  | begin =>
    refine Nat.lt_of_le_of_lt (ticksLeft_atBlock s { r with out := out, progress := .checks } 0) ?_
    show blockTicks r.ops 0 + tailTicks r.ops < 8900 + blockTicks r.ops 0 + tailTicks r.ops
    omega
  | readByte k hk =>
    have hlength := hk.length_eq
    simp only [ticksLeft, State.goTo, List.length_cons] at hlength ⊢
    omega
  | toRounds =>
    simp only [ticksLeft, State.goTo]
    omega
  | round hn =>
    simp only [ticksLeft, State.goTo]
    omega
  | toWrite =>
    simp only [ticksLeft, State.goTo, allEight, List.length_cons, List.length_nil]
    omega
  | writeByte k hk =>
    have hlength := hk.length_eq
    simp only [ticksLeft, State.goTo, List.length_cons] at hlength ⊢
    omega
  | @nextBlock j l r' =>
    refine Nat.lt_of_le_of_lt (ticksLeft_atBlock s { r with out := out, progress := .write j [] l r' } (j + 1)) ?_
    exact Nat.lt_succ_self _
  | readTail m hm =>
    have hlength := hm.length_eq
    simp only [ticksLeft, State.goTo, List.length_cons] at hlength ⊢
    omega
  | writeTail c hc =>
    have hlength := hc.length_eq
    simp only [ticksLeft, State.goTo, List.length_cons] at hlength ⊢
    omega

/-! ## The accesses to come -/

/-- The two accesses by which a trailing byte is copied (43_buffer_transform R184). -/
def copyAccesses (o : Operands) (off : Nat) : List Access :=
  [⟨.read, o.src.toNat + off⟩, ⟨.write, o.dst.toNat + off⟩]

/-- `l` copies the trailing bytes at `toRead`, each read before it is written, and writes those of `toWrite`. -/
def TailAccesses (o : Operands) (toRead : List Nat) (toWrite : List (Nat × Byte)) (l : List Access) : Prop :=
  l.Perm (toRead.flatMap (copyAccesses o) ++ toWrite.map (fun c => ⟨.write, o.dst.toNat + c.1⟩)) ∧
    ∀ off ∈ toRead, (copyAccesses o off).Sublist l

/-- `l` reads and writes the blocks from `j` on, in ascending order, and then copies the trailing bytes. -/
def AccessesFrom (o : Operands) (j : Nat) (l : List Access) : Prop :=
  ∃ (reads writes : Nat → List Access) (tail : List Access),
    l = (List.range' j (o.blocks - j)).flatMap (fun n => reads n ++ writes n) ++ tail ∧
      (∀ n, j ≤ n → n < o.blocks →
        (reads n).Perm (blockAccesses .read (o.src.toNat + 8 * n)) ∧
          (writes n).Perm (blockAccesses .write (o.dst.toNat + 8 * n))) ∧
      TailAccesses o o.tailOffsets [] tail

/-- The accesses of one kind to the bytes `todo` of a block. -/
def bytesOf (kind : AccessKind) (first : Nat) (todo : List (Fin 8)) : List Access :=
  todo.map (fun k => ⟨kind, first + k.val⟩)

theorem bytesOf_perm {todo todo' : List (Fin 8)} {k : Fin 8} (h : todo.Perm (k :: todo')) (kind : AccessKind) (first : Nat) :
    (bytesOf kind first todo).Perm (⟨kind, first + k.val⟩ :: bytesOf kind first todo') := h.map _

/-- `l` is what a buffer command accesses from progress `p` on, to its completion (43_buffer_transform R188). -/
def AccessesOf (o : Operands) (p : Progress) (l : List Access) : Prop :=
  match p with
  | .checks => AccessesFrom o 0 l
  | .read j todo _ =>
    ∃ reads writes rest, l = reads ++ (writes ++ rest) ∧ reads.Perm (bytesOf .read (o.src.toNat + 8 * j) todo) ∧
      writes.Perm (bytesOf .write (o.dst.toNat + 8 * j) allEight) ∧ AccessesFrom o (j + 1) rest
  | .rounds j _ _ _ =>
    ∃ writes rest, l = writes ++ rest ∧ writes.Perm (bytesOf .write (o.dst.toNat + 8 * j) allEight) ∧
      AccessesFrom o (j + 1) rest
  | .write j todo _ _ =>
    ∃ writes rest, l = writes ++ rest ∧ writes.Perm (bytesOf .write (o.dst.toNat + 8 * j) todo) ∧
      AccessesFrom o (j + 1) rest
  | .tail toRead toWrite => TailAccesses o toRead toWrite l
  | .sched _ _ _ _ => False
  | .block _ _ _ => False

theorem accessesFrom_of_atBlock {o : Operands} {j : Nat} {l : List Access} (h : AccessesOf o (o.atBlock j) l) :
    AccessesFrom o j l := by
  rcases Nat.lt_or_ge j o.blocks with hj | hj
  · rw [atBlock_of_lt hj] at h
    obtain ⟨rs, ws, rest, rfl, hrs, hws, reads, writes, tail, rfl, hblocks, htail⟩ := h
    refine ⟨Function.update reads j rs, Function.update writes j ws, tail, ?_, fun n hn hlt => ?_, htail⟩
    · have hrange : List.range' j (o.blocks - j) = j :: List.range' (j + 1) (o.blocks - (j + 1)) := by
        rw [show o.blocks - j = o.blocks - (j + 1) + 1 by omega, List.range'_succ]
      have hlater : (List.range' (j + 1) (o.blocks - (j + 1))).flatMap
            (fun n => Function.update reads j rs n ++ Function.update writes j ws n) =
          (List.range' (j + 1) (o.blocks - (j + 1))).flatMap (fun n => reads n ++ writes n) := by
        refine List.flatMap_congr fun n hn => ?_
        rw [List.mem_range'_1] at hn
        rw [Function.update_of_ne (by omega), Function.update_of_ne (by omega)]
      rw [hrange, List.flatMap_cons, hlater, Function.update_self, Function.update_self]
      simp only [List.append_assoc]
    · by_cases hnj : n = j
      · subst hnj
        rw [Function.update_self, Function.update_self]
        exact ⟨hrs, hws⟩
      · rw [Function.update_of_ne hnj, Function.update_of_ne hnj]
        exact hblocks n (by omega) hlt
  · rw [atBlock_of_le hj] at h
    refine ⟨fun _ => [], fun _ => [], l, ?_, fun n hn hlt => by omega, h⟩
    rw [Nat.sub_eq_zero_of_le hj]
    rfl

/-- A move's access comes before those of the progress it leads to. -/
theorem BufferMove.accessesOf {d : Dir} {s : State} {o : Operands} {p p' : Progress} {x : Option Access}
    {cells : List Host.Cell} (h : BufferMove d s o p x p' cells) {l : List Access} (hl : AccessesOf o p' l) :
    AccessesOf o p (x.toList ++ l) := by
  cases h with
  | begin => exact accessesFrom_of_atBlock hl
  | readByte k hk =>
    obtain ⟨reads, writes, rest, rfl, hreads, hrest⟩ := hl
    exact ⟨_ :: reads, writes, rest, rfl, (hreads.cons _).trans (bytesOf_perm hk _ _).symm, hrest⟩
  | toRounds =>
    obtain ⟨writes, rest, rfl, hrest⟩ := hl
    exact ⟨[], writes, rest, rfl, .nil, hrest⟩
  | round hn => exact hl
  | toWrite => exact hl
  | writeByte k hk =>
    obtain ⟨writes, rest, rfl, hwrites, hrest⟩ := hl
    exact ⟨_ :: writes, rest, rfl, (hwrites.cons _).trans (bytesOf_perm hk _ _).symm, hrest⟩
  | nextBlock => exact ⟨[], l, rfl, .nil, accessesFrom_of_atBlock hl⟩
  | @readTail toRead toRead' toWrite m hm =>
    obtain ⟨hperm, hsub⟩ := hl
    have hwrite : (⟨.write, o.dst.toNat + m⟩ : Access) ∈ l := hperm.mem_iff.mpr (by simp)
    refine ⟨?_, fun off ho => ?_⟩
    · refine (hperm.cons _).trans ?_
      refine .trans ?_ ((hm.flatMap_right _).append_right _).symm
      rw [List.map_cons, List.flatMap_cons]
      exact List.perm_middle.cons _
    · rcases List.mem_cons.mp (hm.mem_iff.mp ho) with rfl | ho
      · exact (List.singleton_sublist.mpr hwrite).cons_cons _
      · exact (hsub off ho).cons _
  | @writeTail toRead toWrite toWrite' c hc =>
    obtain ⟨hperm, hsub⟩ := hl
    refine ⟨?_, fun off ho => (hsub off ho).cons _⟩
    refine (hperm.cons _).trans (List.perm_middle.symm.trans ?_)
    exact ((hc.map fun c => (⟨.write, o.dst.toNat + c.1⟩ : Access)).append_left _).symm

/-! ## A whole run -/

theorem accesses_of_idle {s : State} (hq : s.seq = .idle) (picks : List Nat) : accesses picks s = [] := by
  induction picks with
  | nil => rfl
  | cons pick rest ih =>
    rw [accesses, tick_of_idle pick (State.busy_eq_false.mpr hq), ih, hq]
    rfl

/-- What the micro-steps of a running buffer command access, to its completion, when no access gets an error response. -/
theorem accessesOf_accesses {s : State} {r : Run} {i : Instr} {picks : List Nat} (hq : s.seq = .busy r)
    (hd : decode r.word = .ok i) (hi : i = .encBuf ∨ i = .decBuf) (hp : InBuffer r.ops r.progress)
    (hc : ChecksPass s.keyed r.ops) (hb : BusClear s.platform r.ops) (hn : ticksLeft s ≤ picks.length) :
    AccessesOf r.ops r.progress (accesses picks s) := by
  induction picks generalizing s r with
  | nil => exact absurd (ticksLeft_busy hq) (Nat.not_lt.mpr hn)
  | cons pick rest ih =>
    have haccesses : accesses (pick :: rest) s =
        (nextAccess r.ops pick r.progress).toList ++ accesses rest (s.tick pick) := by
      rw [accesses, hq]
    rw [haccesses]
    cases tick_buffer pick hq hd hi hp with
    | refused code hcode => cases (bufferRefusal_eq_none.mpr hc).symm.trans hcode
    | failed x hx hbus => cases (hx.clear hb).symm.trans hbus
    | done hdone e =>
      rw [accesses_of_idle (by rw [e, State.bufferDone_seq]), hdone]
      exact ⟨.nil, nofun⟩
    | moved p cells hmove _ _ e =>
      have hlt := hmove.ticksLeft_lt hq (cells ++ r.out)
      rw [← e] at hlt
      refine hmove.accessesOf (ih (r := { r with progress := p, out := cells ++ r.out }) ?_ hd (hmove.inBuffer hp) ?_ ?_ ?_)
      · rw [e]
        rfl
      · rw [e]
        exact hc
      · rw [e]
        exact hb
      · rw [List.length_cons] at hn
        omega

end Sys2Proof.Safety

open Sys2Proof Sys2Proof.Machine Sys2Proof.Safety

/-- Settles O53: from the checks on, block by block and then the trailing bytes. -/
theorem masterPortAccessOrder : Obligations.MasterPortAccessOrder := by
  intro s r i picks hq hp hd hi hc hb hn
  have haccesses := accessesOf_accesses hq hd hi (by rw [hp]; trivial) hc hb hn
  rw [hp] at haccesses
  obtain ⟨reads, writes, tail, e, hblocks, hperm, hsub⟩ := haccesses
  refine ⟨reads, writes, tail, ?_, fun j hj => hblocks j (Nat.zero_le _) hj, fun heq => ?_, fun hne => ?_⟩
  · rw [e, List.range_eq_range', Nat.sub_zero]
  · rw [Operands.tailOffsets, if_pos heq] at hperm
    exact hperm.eq_nil
  · rw [Operands.tailOffsets, if_neg hne] at hperm hsub
    rw [List.map_nil, List.append_nil] at hperm
    exact ⟨hperm, hsub⟩

end

section
/-! Completion with an error code, and the bus's error response (60_exceptions R200 to R204, R209): settles O13, O17, O18 and O31. -/

namespace Sys2Proof.Machine

/-! ## Ill-formed accesses -/

theorem csrAccessOk_eq_false {offset size : Nat} (h : size ≠ 4 ∨ offset % 4 ≠ 0) : csrAccessOk offset size = false := by
  rw [csrAccessOk, Bool.and_eq_false_iff, beq_eq_false_iff_ne, beq_eq_false_iff_ne]
  exact h

theorem csrRead_illFormed (s : State) {offset size : Nat} (hwindow : offset < 0x100) (h : size ≠ 4 ∨ offset % 4 ≠ 0) :
    s.csrRead (s.platform.base + offset) size = s.respond .error := by
  simp [State.csrRead, inWindow_offset s hwindow, csrAccessOk_eq_false h]

theorem csrWrite_illFormed (s : State) {offset size : Nat} (v : Word) (hwindow : offset < 0x100)
    (h : size ≠ 4 ∨ offset % 4 ≠ 0) : s.csrWrite (s.platform.base + offset) size v = s.respond .error := by
  simp [State.csrWrite, inWindow_offset s hwindow, csrAccessOk_eq_false h]

/-! ## Words that decode as ILLEGAL -/

theorem engineRun_of_illegal {s : State} {r : Run} {e : DecodeError} (hq : s.seq = .busy r)
    (hd : decode r.word = .error e) : engineRun s = .next s.illegalCommand := by
  simp only [engineRun, hq, hd]

/-- Acceptance of a word that decodes as ILLEGAL keeps KEYED: only SCHEDULE's word clears it (40_key_schedule R142). -/
theorem keyed_accept_illegal {w : Word} {e : DecodeError} (hd : decode w = .error e) (s : State) :
    (s.accept w).keyed = s.keyed := by
  rw [State.accept_keyed, isSchedule, hd]
  exact Bool.and_true _

/-! ## No fault and no refusal -/

theorem exec_eq_next (i : Instr) (s : State) : ∃ t, exec i s = .next t := by
  rcases exec_cases i s with ⟨-, h⟩ | ⟨-, -, h⟩ | ⟨-, _, h⟩ | ⟨-, -, _, h⟩ | ⟨-, -, h | ⟨_, h⟩⟩ <;> exact ⟨_, h⟩

theorem engineRun_eq_next (s : State) : ∃ t, engineRun s = .next t := by
  unfold engineRun
  split
  · exact ⟨s, rfl⟩
  · split
    · exact exec_eq_next _ s
    · exact ⟨_, rfl⟩

theorem handle_eq_next (e : Event) (s : State) : ∃ t, handle e s = .next t := by
  cases e with
  | finish => exact engineRun_eq_next s
  | _ => exact ⟨_, rfl⟩

theorem step_eq_next (s : State) : ∃ t, step s = .next t := by
  cases hi : s.inputs with
  | nil =>
    rw [step_of_no_event hi]
    exact engineRun_eq_next s
  | cons e rest =>
    rw [step_of_event hi]
    exact handle_eq_next e _

/-! ## The completion -/

theorem exec_completes {i : Instr} {s t : State} (h : exec i s = .next t) : t.done = true ∧ t.seq = .idle := by
  rcases exec_ends h with ⟨-, rfl⟩ | ⟨-, rfl⟩ | ⟨-, hended⟩
  · exact ⟨rfl, rfl⟩
  · exact ⟨rfl, rfl⟩
  · exact ⟨hended.done, hended.idle⟩

theorem ErrCode.code_le (code : ErrCode) : code.code.toNat ≤ 6 := by
  cases code <;> decide

/-! ## Commands without a key -/

/-- The KEYED check comes first (60_exceptions R210). -/
theorem exec_of_unkeyed {i : Instr} (hi : i ≠ .schedule) {s : State} (hk : s.keyed = false) :
    exec i s = .next (s.complete .notKeyed) := by
  have hrefusal : bufferRefusal s.keyed s.operands = some .notKeyed := by
    rw [hk]
    rfl
  cases i with
  | schedule => exact absurd rfl hi
  | encBlock => exact exec_block_of_unkeyed (.inl rfl) hk
  | decBlock => exact exec_block_of_unkeyed (.inr rfl) hk
  | encBuf => exact exec_buffer_of_refusal (.inl rfl) hrefusal
  | decBuf => exact exec_buffer_of_refusal (.inr rfl) hrefusal

end Sys2Proof.Machine

open Sys2Proof Sys2Proof.Machine

/-- Settles O13: a read and a write get the same answer. -/
theorem illFormedAccessGetsErrorResponse : Obligations.IllFormedAccessGetsErrorResponse := by
  intro s offset size v rest hwindow h hi
  rcases hi with hi | hi <;> rw [step_of_event hi]
  · exact congrArg Host.Outcome.next (csrRead_illFormed { s with inputs := rest } hwindow h)
  · exact congrArg Host.Outcome.next (csrWrite_illFormed { s with inputs := rest } v hwindow h)

/-- Settles O17: acceptance keeps KEYED, and the completion makes the machine idle again. -/
theorem illegalCommandCompletes : Obligations.IllegalCommandCompletes := by
  intro s w e hq hd hi
  have hrun : engineRun (s.accept w) = .next (s.accept w).illegalCommand := engineRun_of_illegal rfl hd
  have hback : (s.accept w).illegalCommand =
      { s with keyed := (s.accept w).keyed, err := .illegalCmd, done := true, seq := .idle } := rfl
  rw [step_of_no_event (s := s.accept w) hi, hrun, hback, keyed_accept_illegal hd, ← hq]

/-- Settles O18: every event is handled, and every command's meaning ends in a completion. -/
theorem everyCommandEndsInOneCompletion : Obligations.EveryCommandEndsInOneCompletion := by
  refine ⟨step_eq_next, fun i s => ?_⟩
  obtain ⟨t, h⟩ := exec_eq_next i s
  obtain ⟨hdone, hidle⟩ := exec_completes h
  exact ⟨t, h, hdone, State.busy_eq_false.mpr hidle, t.err.code_le⟩

/-- Settles O31: a block command by its own check, a buffer command by the first of its checks. -/
theorem transformsNeedAKey : Obligations.TransformsNeedAKey := fun _ _ hi hk => exec_of_unkeyed hi hk

end

section
/-! How near a micro-step brings a running command to its completion, from any progress (70_reset_and_hazards R260): settles O52. -/

namespace Sys2Proof.Safety

open Sys2Proof.Machine

theorem ticksLeft_of_idle {s : State} (hq : s.seq = .idle) : ticksLeft s = 0 := by
  rw [ticksLeft, hq]

theorem ticksLeft_of_progress {s : State} {r : Run} {p : Progress} (hq : s.seq = .busy r) (hp : r.progress = p) :
    ticksLeft s = ticksLeft (s.goTo r p) := by
  simp only [ticksLeft, hq, hp, State.goTo]

/-- A completed command is nearer its completion than a running one. -/
theorem ticksLeft_lt_of_completed {s t : State} {r : Run} (hq : s.seq = .busy r) (ht : t.seq = .idle) :
    ticksLeft t < ticksLeft s := by
  rw [ticksLeft_of_idle ht]
  exact ticksLeft_busy hq

section

variable {s : State} {r : Run} (hq : s.seq = .busy r)
include hq

theorem ticksLeft_move_lt {d : Dir} {p q : Progress} {x : Option Access} {cells : List Host.Cell} (hp : r.progress = q)
    (h : BufferMove d s r.ops q x p cells) (out : List Host.Cell) :
    ticksLeft (s.goTo { r with out := out } p) < ticksLeft s := by
  subst hp
  exact h.ticksLeft_lt hq out

theorem ticksLeft_blockChecks_lt (hp : r.progress = .checks) :
    ticksLeft (if s.keyed then s.goTo r (.block 0 r.ops.blkL r.ops.blkR) else s.complete .notKeyed) < ticksLeft s := by
  split
  · rw [ticksLeft_of_progress hq hp]
    simp only [ticksLeft, State.goTo]
    omega
  · exact ticksLeft_lt_of_completed hq rfl

theorem ticksLeft_bufferChecks_lt {i : Instr} (hi : i = .encBuf ∨ i = .decBuf) (hp : r.progress = .checks) :
    ticksLeft (tickChecks i r s) < ticksLeft s := by
  rcases tickChecks_buffer hi r s with ⟨code, -, e⟩ | ⟨-, e⟩ <;> rw [e]
  · exact ticksLeft_lt_of_completed hq rfl
  · exact ticksLeft_move_lt hq hp (.begin (d := .enc)) r.out

theorem ticksLeft_tickChecks_lt (i : Instr) (hp : r.progress = .checks) : ticksLeft (tickChecks i r s) < ticksLeft s := by
  cases i with
  | schedule =>
    dsimp only [tickChecks]
    split
    · exact ticksLeft_lt_of_completed hq rfl
    · rw [ticksLeft_of_progress hq hp]
      simp only [ticksLeft, State.goTo]
      omega
  | encBlock => exact ticksLeft_blockChecks_lt hq hp
  | decBlock => exact ticksLeft_blockChecks_lt hq hp
  | encBuf => exact ticksLeft_bufferChecks_lt hq (.inl rfl) hp
  | decBuf => exact ticksLeft_bufferChecks_lt hq (.inr rfl) hp

/-- One encryption takes 16 micro-steps; `ticksLeft` counts 17, so that the last round, which starts the next one, lowers it from
whatever `round` it is made at. -/
theorem ticksLeft_tickSched_lt {n round : Nat} {l h : Word} (hp : r.progress = .sched n round l h) :
    ticksLeft (tickSched n round (l, h) r s) < ticksLeft s := by
  rw [ticksLeft_of_progress hq hp]
  dsimp only [tickSched]
  split
  · simp only [ticksLeft, State.goTo]
    omega
  · split
    · simp only [ticksLeft, State.goTo]
      omega
    · exact ticksLeft_lt_of_completed rfl rfl

theorem ticksLeft_tickBlock_lt (d : Dir) {round : Nat} {l h : Word} (hp : r.progress = .block round l h) :
    ticksLeft (tickBlock d round (l, h) r s) < ticksLeft s := by
  rw [ticksLeft_of_progress hq hp]
  dsimp only [tickBlock]
  split
  · simp only [ticksLeft, State.goTo]
    omega
  · exact ticksLeft_lt_of_completed rfl rfl

/-- `tickRounds_move` without its bound on `round`: past round 15 the step is not a `BufferMove`. -/
theorem ticksLeft_tickRounds_lt (d : Dir) {j round : Nat} {l h : Word} (hp : r.progress = .rounds j round l h) :
    ticksLeft (tickRounds d j round (l, h) r s) < ticksLeft s := by
  dsimp only [tickRounds]
  split
  · exact ticksLeft_move_lt hq hp (.round (d := d) ‹_›) r.out
  · rw [ticksLeft_of_progress hq hp]
    simp only [ticksLeft, State.goTo, allEight, List.length_cons, List.length_nil]
    omega

theorem ticksLeft_tickRead_lt (pick : Nat) {j : Nat} {todo : List (Fin 8)} {b : Vector Byte 8}
    (hp : r.progress = .read j todo b) : ticksLeft (tickRead pick j todo b r s) < ticksLeft s := by
  unfold tickRead
  cases hk : chosen pick todo with
  | none =>
    cases eq_nil_of_chosen hk
    exact ticksLeft_move_lt hq hp (.toRounds (d := .enc)) r.out
  | some k => exact ticksLeft_move_lt hq hp (.readByte (d := .enc) k (perm_chosen_unchosen hk)) r.out

theorem ticksLeft_tickWrite_lt (pick : Nat) {j : Nat} {todo : List (Fin 8)} {l h : Word}
    (hp : r.progress = .write j todo l h) : ticksLeft (tickWrite pick j todo (l, h) r s) < ticksLeft s := by
  unfold tickWrite
  cases hk : chosen pick todo with
  | none =>
    cases eq_nil_of_chosen hk
    exact ticksLeft_move_lt hq hp (.nextBlock (d := .enc)) r.out
  | some k => exact ticksLeft_move_lt hq hp (.writeByte (d := .enc) k (perm_chosen_unchosen hk)) _

theorem ticksLeft_tickTail_lt (pick : Nat) {toRead : List Nat} {toWrite : List (Nat × Byte)}
    (hp : r.progress = .tail toRead toWrite) : ticksLeft (tickTail pick toRead toWrite r s) < ticksLeft s := by
  unfold tickTail
  cases hx : tailChoice pick toRead toWrite with
  | none => exact ticksLeft_lt_of_completed hq (State.bufferDone_seq ..)
  | some x =>
    rcases List.mem_append.mp (tailChoice_mem hx) with hx | hx
    · obtain ⟨m, hm, rfl⟩ := List.mem_map.mp hx
      exact ticksLeft_move_lt hq hp (.readTail (d := .enc) m (List.perm_cons_erase hm)) r.out
    · obtain ⟨c, hc, rfl⟩ := List.mem_map.mp hx
      exact ticksLeft_move_lt hq hp (.writeTail (d := .enc) c (List.perm_cons_erase hc)) _

theorem ticksLeft_tickProgress_lt (pick : Nat) (i : Instr) : ticksLeft (tickProgress pick i r s) < ticksLeft s := by
  unfold tickProgress
  cases hp : r.progress with
  | checks => exact ticksLeft_tickChecks_lt hq i hp
  | sched n round l h => exact ticksLeft_tickSched_lt hq hp
  | block round l h => exact ticksLeft_tickBlock_lt hq _ hp
  | read j todo b => exact ticksLeft_tickRead_lt hq pick hp
  | rounds j round l h => exact ticksLeft_tickRounds_lt hq _ hp
  | write j todo l h => exact ticksLeft_tickWrite_lt hq pick hp
  | tail toRead toWrite => exact ticksLeft_tickTail_lt hq pick hp

/-- Every micro-step of a running command lowers `ticksLeft`, whatever progress it starts from. -/
theorem ticksLeft_tick_lt (pick : Nat) : ticksLeft (s.tick pick) < ticksLeft s := by
  unfold State.tick
  rw [hq]
  dsimp only
  split
  · exact ticksLeft_lt_of_completed hq rfl
  · split
    · exact ticksLeft_lt_of_completed hq rfl
    · exact ticksLeft_tickProgress_lt hq pick _

end

theorem tickAll_cons (pick : Nat) (picks : List Nat) (s : State) : tickAll (pick :: picks) s = tickAll picks (s.tick pick) := rfl

end Sys2Proof.Safety

open Sys2Proof Sys2Proof.Machine Sys2Proof.Safety

/-- Settles O52: each micro-step lowers the bound while the command runs, and leaves an idle machine alone. -/
theorem microStepsReachCompletion : Obligations.MicroStepsReachCompletion := by
  intro s picks hn
  induction picks generalizing s with
  | nil =>
    cases hq : s.seq with
    | idle => exact State.busy_eq_false.mpr hq
    | busy r => exact absurd (ticksLeft_busy hq) (Nat.not_lt.mpr hn)
  | cons pick rest ih =>
    rw [tickAll_cons]
    rw [List.length_cons] at hn
    refine ih (s.tick pick) ?_
    cases hq : s.seq with
    | idle =>
      rw [tick_of_idle pick (State.busy_eq_false.mpr hq), ticksLeft_of_idle hq]
      exact Nat.zero_le _
    | busy r =>
      have hlt := ticksLeft_tick_lt hq pick
      omega

end

section
/-! The reset input (70_reset_and_hazards R240, R242, R243): settles O47. -/

namespace Sys2Proof.Machine

theorem resetInput_readReg (s : State) (r : Reg) : s.resetInput.readReg r = State.reset.readReg r := by
  cases r <;> rfl

/-- Reset leaves all of memory when it abandons no buffer command (70_reset_and_hazards R242). -/
theorem resetInput_mem_of_not_buffer {s : State}
    (h : ∀ r, s.seq = .busy r → decode r.word ≠ .ok .encBuf ∧ decode r.word ≠ .ok .decBuf) :
    s.resetInput.mem = s.mem := by
  change s.abandon.mem = s.mem
  unfold State.abandon
  split
  · rfl
  · rename_i r hq
    rw [if_neg]
    rw [isBuffer_iff, not_or]
    exact h r hq

/-- Reset leaves every byte outside the running command's destination (70_reset_and_hazards R243). -/
theorem read_resetInput_of_not_inDest {s : State} (hw : Memory.wf s.mem) {r : Run} (hq : s.seq = .busy r) {a : Nat}
    (h : r.ops.inDest a = false) : s.resetInput.mem.read a = s.mem.read a := by
  by_contra ha
  obtain ⟨r', hq', -, hin⟩ := resetInput_changes hw ha
  cases hq.symm.trans hq'
  cases h.symm.trans hin

end Sys2Proof.Machine

open Sys2Proof Sys2Proof.Machine

/-- Settles O47: the registers are those of the reset state (O46), and reset changes memory only in an abandoned destination. -/
theorem resetInput : Obligations.ResetInput := by
  intro s rest hw hi
  obtain ⟨hregisters, -⟩ := resetValues
  refine ⟨State.resetInput { s with inputs := rest }, step_of_event hi, fun r => ?_, rfl, rfl, rfl, rfl, rfl, rfl, rfl, ?_, ?_⟩
  · rw [resetInput_readReg, hregisters r]
  · exact resetInput_mem_of_not_buffer (s := { s with inputs := rest })
  · exact fun r a hq ha => read_resetInput_of_not_inDest (s := { s with inputs := rest }) hw hq ha

end
